-- ==== Sys2Proof/Word.lean ====
section
/-! DEFINITION. The words of the machine (spec 00_scope.md R3, R8; 10_state.md R20, R36): XLEN is 64. -/

namespace Sys2Proof

/-- A register value or an address: a `u64` (R3, R8). -/
abbrev Word := BitVec 64

/-- One byte of memory (R43). -/
abbrev Byte := BitVec 8

/-- One 32-bit instruction word (R120). -/
abbrev InstrWord := BitVec 32

/-- A register number: the 5-bit field `rd`, `rs1` or `rs2` (R36, R122). -/
abbrev Reg := BitVec 5

end Sys2Proof
end

