-- ==== Sys2Proof/Config.lean ====
section
/-! DEFINITION. What is fixed for one machine (spec 00_scope.md R6, R7; 10_state.md R29; 70_reset_and_hazards.md R441) and
the values the spec leaves free. The spec calls the settings "configuration registers", fixed at construction and written by no
instruction, so State carries one `Config` in a field that no step changes (log entry 1). -/

namespace Sys2Proof

/-- Replacement policy of a cache level (R29 `LiC_METHOD`, R80, R81). -/
inductive Method where
  | lru
  | twoQueue
  deriving DecidableEq, Repr

/-- Branch prediction strategy (R38, R461 to R464). -/
inductive PredStrategy where
  | alwaysNotTaken
  | alwaysTaken
  | oneBit
  | twoBit
  | twoBitAlt
  deriving DecidableEq, Repr

/-- `Misaligned8` (R63, D9): an 8-byte access that is not 8-aligned. -/
inductive Misaligned8 where
  | fault
  | permit
  deriving DecidableEq, Repr

/-- `DivCorner` (R187, D32): division by zero and signed overflow. -/
inductive DivCorner where
  | fault
  | riscv
  deriving DecidableEq, Repr

/-- `JalrOdd` (R208, D33): a JALR target with bit 0 set. -/
inductive JalrOdd where
  | fault
  | clear
  deriving DecidableEq, Repr

/-- `PrefetchOOB` (R86, D18): a prefetch line past physical memory. -/
inductive PrefetchOob where
  | fault
  | skip
  deriving DecidableEq, Repr

/-- The operations `ExtraOps` may name (R136). The spec gives none of them a meaning. -/
inductive ExtraOp where
  | mulhsu | mulhu | divu | remu | mulw | divw | divuw | remw | remuw | fence | fenceI | ebreak
  deriving DecidableEq, Repr

/-- The settings of one cache level (R6, R29). -/
structure LevelCfg where
  /-- `LiC_SIZE`: total bytes of line data. -/
  size : Nat
  /-- `LiC_ASSOC`: lines per set. -/
  assoc : Nat
  /-- `LiC_BSIZE`: bytes per line. -/
  lineSize : Nat
  /-- `LiC_WT`: write-through (true) or write-back (false). -/
  wt : Bool
  /-- `LiC_WA`: write-allocate (true) or no-write-allocate (false). -/
  wa : Bool
  method : Method
  /-- `LiC_PREFETCH`: prefetch depth. -/
  prefetch : Nat
  hitLat : Nat
  busLat : Nat
  deriving DecidableEq, Repr

/-- The cost table `Cost` (R441). -/
structure CostTable where
  add64 : Nat
  add32 : Nat
  mul64 : Nat
  div64 : Nat
  deriving DecidableEq, Repr

/-- Every implementation parameter of R6, as parsed values (D51). `XLEN` and `NREG` are the types of `Word` and the
register file. The launch state is `Machine.Launch`. -/
structure Config where
  pageSize : Nat
  physMemSize : Nat
  tableSize : Nat
  predStrategy : PredStrategy
  predInit : Fin 4
  /-- `CacheLevels` is the length of this list; its first entry is L1 (R67). -/
  levels : List LevelCfg
  memHitLat : Nat
  memBusLat : Nat
  cost : CostTable
  chargeFetchLatency : Bool
  misaligned8 : Misaligned8
  divCorner : DivCorner
  jalrOdd : JalrOdd
  prefetchOob : PrefetchOob
  shamt6 : Bool
  extraOps : List ExtraOp
  maxStrLen : Nat
  /-- `TraceBytes` (R98). -/
  traceBytes : Nat
  deriving DecidableEq, Repr

/-- `Sets[i] = Size[i] / (Assoc[i] * LineSize[i])` (R29, R70). -/
def LevelCfg.sets (c : LevelCfg) : Nat := c.size / (c.assoc * c.lineSize)

/-- A power of two. -/
def isPow2 (n : Nat) : Bool := n == 2 ^ n.log2

/-- The constraints of R7 on one cache level. -/
def LevelCfg.admitted (c : LevelCfg) : Bool :=
  c.size % (c.assoc * c.lineSize) == 0 && isPow2 c.lineSize && isPow2 c.sets && decide (8 ≤ c.lineSize)

/-- `LineSize[i] ≤ LineSize[i+1]` for consecutive levels (R7). -/
def linesGrow : List LevelCfg → Bool
  | c :: d :: rest => decide (c.lineSize ≤ d.lineSize) && linesGrow (d :: rest)
  | _ => true

/-- R7: the configurations that have a run. `extraOps` must be empty: R136 gives the extra operations no semantics, so the
empty set is the only value the spec supports. -/
def Config.admitted (c : Config) : Bool :=
  c.levels.all LevelCfg.admitted && linesGrow c.levels && decide (c.levels.length ≤ 3) &&
  isPow2 c.pageSize && c.physMemSize % c.pageSize == 0 && decide (1 ≤ c.tableSize) &&
  (c.predStrategy != .oneBit || decide (c.predInit.val ≤ 1)) && c.extraOps.isEmpty

/-- The L1 of the "vector value" column of R6. -/
def LevelCfg.vector : LevelCfg where
  size := 1024
  assoc := 1
  lineSize := 32
  wt := false
  wa := true
  method := .lru
  prefetch := 0
  hitLat := 1
  busLat := 0

/-- The parameters at reset: the spec's own choice where R6 gives one (`fault`, `true`, the empty set), and the vector value
where R6 marks the parameter OPEN. DESIGN CHOICE (log entry 2). -/
def Config.standard : Config where
  pageSize := 4096
  physMemSize := 2 ^ 20
  tableSize := 1024
  predStrategy := .twoBit
  predInit := 0
  levels := [LevelCfg.vector]
  memHitLat := 100
  memBusLat := 0
  cost := { add64 := 1, add32 := 1, mul64 := 1, div64 := 1 }
  chargeFetchLatency := true
  misaligned8 := .fault
  divCorner := .fault
  jalrOdd := .fault
  prefetchOob := .fault
  shamt6 := true
  extraOps := []
  maxStrLen := 256
  traceBytes := 1

/-- The configuration of 95_test_vectors.md section 1, which sets `DivCorner = riscv`. -/
def Config.vectors : Config := { Config.standard with divCorner := .riscv }

/-- FREE VALUE (R267, R268; log entry 3): the 64-bit value the host delivers for the read number given, once the values
supplied with the launch state are used up. -/
opaque Config.freeInput : Nat → Word

/-- FREE VALUE (R314, I20; log entry 4): a byte of a cache line that a storage request was changing when a lower layer raised
`BoundsError`. -/
opaque Config.freeByte : Nat → Byte

end Sys2Proof
end

