-- ==== Sys2Proof/WellFormed.lean ====
section
/-! DEFINITION. Which terms of `Instr` are instructions: what the operand types leave to check. -/

namespace Sys2Proof

/-- An instruction the encoding can hold. A branch or JAL displacement is even, because bit 0 of the SB- and UJ-immediate is 0
(R127, R129). Under `Shamt6 = false` the amount of SLLI, SRLI and SRAI has 5 bits (R130). -/
def Instr.wf (shamt6 : Bool) : Instr → Bool
  | .lui _ _ => true
  | .auipc _ _ => true
  | .jal _ off => !off.getLsbD 0
  | .jalr _ _ _ => true
  | .beq _ _ off => !off.getLsbD 0
  | .bne _ _ off => !off.getLsbD 0
  | .blt _ _ off => !off.getLsbD 0
  | .bge _ _ off => !off.getLsbD 0
  | .bltu _ _ off => !off.getLsbD 0
  | .bgeu _ _ off => !off.getLsbD 0
  | .lb _ _ _ => true
  | .lh _ _ _ => true
  | .lw _ _ _ => true
  | .ld _ _ _ => true
  | .lbu _ _ _ => true
  | .lhu _ _ _ => true
  | .lwu _ _ _ => true
  | .sb _ _ _ => true
  | .sh _ _ _ => true
  | .sw _ _ _ => true
  | .sd _ _ _ => true
  | .addi _ _ _ => true
  | .slti _ _ _ => true
  | .sltiu _ _ _ => true
  | .xori _ _ _ => true
  | .ori _ _ _ => true
  | .andi _ _ _ => true
  | .slli _ _ shamt => shamt6 || !shamt.getLsbD 5
  | .srli _ _ shamt => shamt6 || !shamt.getLsbD 5
  | .srai _ _ shamt => shamt6 || !shamt.getLsbD 5
  | .add _ _ _ => true
  | .sub _ _ _ => true
  | .sll _ _ _ => true
  | .slt _ _ _ => true
  | .sltu _ _ _ => true
  | .xor _ _ _ => true
  | .srl _ _ _ => true
  | .sra _ _ _ => true
  | .or _ _ _ => true
  | .and _ _ _ => true
  | .mul _ _ _ => true
  | .mulh _ _ _ => true
  | .div _ _ _ => true
  | .rem _ _ _ => true
  | .addiw _ _ _ => true
  | .slliw _ _ _ => true
  | .srliw _ _ _ => true
  | .sraiw _ _ _ => true
  | .addw _ _ _ => true
  | .subw _ _ _ => true
  | .sllw _ _ _ => true
  | .srlw _ _ _ => true
  | .sraw _ _ _ => true
  | .ecall => true

end Sys2Proof
end

