-- ==== Sys2Proof/Decode.lean ====
section
/-! DEFINITION. Encoding and decoding (30_encoding.md R120 to R138; 10_state.md R36): the fields of a word, the decoder, total on
every word and on any bytes, the encoder written from the same tables, and the opcode map itself. The bit positions are those of
R121, R122 and R130. -/

namespace Sys2Proof

/-! ### Fields of a word (R122, R124) -/

def opcodeOf (w : InstrWord) : BitVec 7 := w.extractLsb' 0 7
def rdOf (w : InstrWord) : Reg := w.extractLsb' 7 5
def func3Of (w : InstrWord) : BitVec 3 := w.extractLsb' 12 3
def rs1Of (w : InstrWord) : Reg := w.extractLsb' 15 5
def rs2Of (w : InstrWord) : Reg := w.extractLsb' 20 5
def func7Of (w : InstrWord) : BitVec 7 := w.extractLsb' 25 7
/-- `w[31:26]`, which selects SLLI, SRLI and SRAI when `Shamt6` holds (R130). -/
def func6Of (w : InstrWord) : BitVec 6 := w.extractLsb' 26 6
/-- `w[25:20]` (R130). -/
def shamt6Of (w : InstrWord) : BitVec 6 := w.extractLsb' 20 6
/-- `w[24:20]` (R130). -/
def shamt5Of (w : InstrWord) : BitVec 5 := w.extractLsb' 20 5
/-- The bits of the I-immediate before sign extension (R125). -/
def immIOf (w : InstrWord) : BitVec 12 := w.extractLsb' 20 12
/-- The bits of the S-immediate (R126). -/
def immSOf (w : InstrWord) : BitVec 12 := func7Of w ++ rdOf w
/-- The bits of the SB-immediate: `w[31], w[7], w[30:25], w[11:8], 0` (R127). -/
def immSBOf (w : InstrWord) : BitVec 13 :=
  w.extractLsb' 31 1 ++ w.extractLsb' 7 1 ++ w.extractLsb' 25 6 ++ w.extractLsb' 8 4 ++ 0#1
/-- `w[31:12]`, the upper 20 bits of the U-immediate (R128). -/
def immUOf (w : InstrWord) : BitVec 20 := w.extractLsb' 12 20
/-- The bits of the UJ-immediate: `w[31], w[19:12], w[20], w[30:21], 0` (R129). -/
def immUJOf (w : InstrWord) : BitVec 21 :=
  w.extractLsb' 31 1 ++ w.extractLsb' 12 8 ++ w.extractLsb' 20 1 ++ w.extractLsb' 21 10 ++ 0#1

/-! ### The decoder -/

/-- The six structural types (R36, R123). -/
inductive Format where
  | r | i | s | sb | u | uj
  deriving DecidableEq, Repr

/-- The opcode selects the type; every other opcode has none (R123). -/
def formatOf (op : BitVec 7) : Option Format :=
  if op = 0b0110011#7 ∨ op = 0b0111011#7 then some .r
  else if op = 0b0000011#7 ∨ op = 0b0010011#7 ∨ op = 0b0011011#7 ∨ op = 0b1100111#7 ∨ op = 0b1110011#7 then some .i
  else if op = 0b0100011#7 then some .s
  else if op = 0b1100011#7 then some .sb
  else if op = 0b0110111#7 ∨ op = 0b0010111#7 then some .u
  else if op = 0b1101111#7 then some .uj
  else none

/-- Why a word is a decode failure (R134, R135). Every reason is the same `DecodeError` to the machine. -/
inductive DecodeReject where
  /-- the opcode has no type (R123) -/
  | noType
  /-- the (opcode, func3, func7) triple is unmapped (R131, R133) -/
  | unmapped
  /-- a SYSTEM word other than 0x00000073 (R132) -/
  | notEcall
  /-- fewer than four bytes -/
  | truncated
  deriving DecidableEq, Repr

/-- What the decoder answers. -/
inductive Decoded where
  | ok (i : Instr)
  | reject (why : DecodeReject)
  deriving DecidableEq, Repr

/-- BRANCH, selected by func3 (R121, R131). -/
def decodeBranch (w : InstrWord) : Decoded :=
  let f3 := func3Of w
  if f3 = 0b000#3 then .ok (.beq (rs1Of w) (rs2Of w) (immSBOf w))
  else if f3 = 0b001#3 then .ok (.bne (rs1Of w) (rs2Of w) (immSBOf w))
  else if f3 = 0b100#3 then .ok (.blt (rs1Of w) (rs2Of w) (immSBOf w))
  else if f3 = 0b101#3 then .ok (.bge (rs1Of w) (rs2Of w) (immSBOf w))
  else if f3 = 0b110#3 then .ok (.bltu (rs1Of w) (rs2Of w) (immSBOf w))
  else if f3 = 0b111#3 then .ok (.bgeu (rs1Of w) (rs2Of w) (immSBOf w))
  else .reject .unmapped

/-- LOAD, selected by func3. -/
def decodeLoad (w : InstrWord) : Decoded :=
  let f3 := func3Of w
  if f3 = 0b000#3 then .ok (.lb (rdOf w) (rs1Of w) (immIOf w))
  else if f3 = 0b001#3 then .ok (.lh (rdOf w) (rs1Of w) (immIOf w))
  else if f3 = 0b010#3 then .ok (.lw (rdOf w) (rs1Of w) (immIOf w))
  else if f3 = 0b011#3 then .ok (.ld (rdOf w) (rs1Of w) (immIOf w))
  else if f3 = 0b100#3 then .ok (.lbu (rdOf w) (rs1Of w) (immIOf w))
  else if f3 = 0b101#3 then .ok (.lhu (rdOf w) (rs1Of w) (immIOf w))
  else if f3 = 0b110#3 then .ok (.lwu (rdOf w) (rs1Of w) (immIOf w))
  else .reject .unmapped

/-- STORE, selected by func3. -/
def decodeStore (w : InstrWord) : Decoded :=
  let f3 := func3Of w
  if f3 = 0b000#3 then .ok (.sb (rs1Of w) (rs2Of w) (immSOf w))
  else if f3 = 0b001#3 then .ok (.sh (rs1Of w) (rs2Of w) (immSOf w))
  else if f3 = 0b010#3 then .ok (.sw (rs1Of w) (rs2Of w) (immSOf w))
  else if f3 = 0b011#3 then .ok (.sd (rs1Of w) (rs2Of w) (immSOf w))
  else .reject .unmapped

/-- The shift-immediate forms of OP-IMM with the 6-bit amount given: the upper bits are `w[31:26]` when `Shamt6` holds; when it
does not, they are the whole of `w[31:25]`, so a word with `w[25] = 1` fails (R130). -/
def decodeShiftImm (shamt6 : Bool) (w : InstrWord) (left : Bool) : Decoded :=
  if !shamt6 && w.getLsbD 25 then .reject .unmapped
  else if func6Of w = 0b000000#6 then
    .ok (if left then .slli (rdOf w) (rs1Of w) (shamt6Of w) else .srli (rdOf w) (rs1Of w) (shamt6Of w))
  else if func6Of w = 0b010000#6 ∧ left = false then .ok (.srai (rdOf w) (rs1Of w) (shamt6Of w))
  else .reject .unmapped

/-- OP-IMM, selected by func3, and for the shifts by the upper bits too. -/
def decodeOpImm (shamt6 : Bool) (w : InstrWord) : Decoded :=
  let f3 := func3Of w
  if f3 = 0b000#3 then .ok (.addi (rdOf w) (rs1Of w) (immIOf w))
  else if f3 = 0b001#3 then decodeShiftImm shamt6 w true
  else if f3 = 0b010#3 then .ok (.slti (rdOf w) (rs1Of w) (immIOf w))
  else if f3 = 0b011#3 then .ok (.sltiu (rdOf w) (rs1Of w) (immIOf w))
  else if f3 = 0b100#3 then .ok (.xori (rdOf w) (rs1Of w) (immIOf w))
  else if f3 = 0b101#3 then decodeShiftImm shamt6 w false
  else if f3 = 0b110#3 then .ok (.ori (rdOf w) (rs1Of w) (immIOf w))
  else .ok (.andi (rdOf w) (rs1Of w) (immIOf w))

/-- OP-IMM-32: ADDIW by func3, the shifts by the exact func7 (R130). -/
def decodeOpImm32 (w : InstrWord) : Decoded :=
  let f3 := func3Of w
  let f7 := func7Of w
  if f3 = 0b000#3 then .ok (.addiw (rdOf w) (rs1Of w) (immIOf w))
  else if f3 = 0b001#3 ∧ f7 = 0b0000000#7 then .ok (.slliw (rdOf w) (rs1Of w) (shamt5Of w))
  else if f3 = 0b101#3 ∧ f7 = 0b0000000#7 then .ok (.srliw (rdOf w) (rs1Of w) (shamt5Of w))
  else if f3 = 0b101#3 ∧ f7 = 0b0100000#7 then .ok (.sraiw (rdOf w) (rs1Of w) (shamt5Of w))
  else .reject .unmapped

/-- OP: func7 = 0000000. -/
def decodeOpBase (w : InstrWord) : Decoded :=
  let f3 := func3Of w
  if f3 = 0b000#3 then .ok (.add (rdOf w) (rs1Of w) (rs2Of w))
  else if f3 = 0b001#3 then .ok (.sll (rdOf w) (rs1Of w) (rs2Of w))
  else if f3 = 0b010#3 then .ok (.slt (rdOf w) (rs1Of w) (rs2Of w))
  else if f3 = 0b011#3 then .ok (.sltu (rdOf w) (rs1Of w) (rs2Of w))
  else if f3 = 0b100#3 then .ok (.xor (rdOf w) (rs1Of w) (rs2Of w))
  else if f3 = 0b101#3 then .ok (.srl (rdOf w) (rs1Of w) (rs2Of w))
  else if f3 = 0b110#3 then .ok (.or (rdOf w) (rs1Of w) (rs2Of w))
  else .ok (.and (rdOf w) (rs1Of w) (rs2Of w))

/-- OP, selected by func3 and func7. -/
def decodeOp (w : InstrWord) : Decoded :=
  let f3 := func3Of w
  let f7 := func7Of w
  if f7 = 0b0000000#7 then decodeOpBase w
  else if f7 = 0b0100000#7 ∧ f3 = 0b000#3 then .ok (.sub (rdOf w) (rs1Of w) (rs2Of w))
  else if f7 = 0b0100000#7 ∧ f3 = 0b101#3 then .ok (.sra (rdOf w) (rs1Of w) (rs2Of w))
  else if f7 = 0b0000001#7 ∧ f3 = 0b000#3 then .ok (.mul (rdOf w) (rs1Of w) (rs2Of w))
  else if f7 = 0b0000001#7 ∧ f3 = 0b001#3 then .ok (.mulh (rdOf w) (rs1Of w) (rs2Of w))
  else if f7 = 0b0000001#7 ∧ f3 = 0b100#3 then .ok (.div (rdOf w) (rs1Of w) (rs2Of w))
  else if f7 = 0b0000001#7 ∧ f3 = 0b110#3 then .ok (.rem (rdOf w) (rs1Of w) (rs2Of w))
  else .reject .unmapped

/-- OP-32, selected by func3 and func7. -/
def decodeOp32 (w : InstrWord) : Decoded :=
  let f3 := func3Of w
  let f7 := func7Of w
  if f7 = 0b0000000#7 ∧ f3 = 0b000#3 then .ok (.addw (rdOf w) (rs1Of w) (rs2Of w))
  else if f7 = 0b0100000#7 ∧ f3 = 0b000#3 then .ok (.subw (rdOf w) (rs1Of w) (rs2Of w))
  else if f7 = 0b0000000#7 ∧ f3 = 0b001#3 then .ok (.sllw (rdOf w) (rs1Of w) (rs2Of w))
  else if f7 = 0b0000000#7 ∧ f3 = 0b101#3 then .ok (.srlw (rdOf w) (rs1Of w) (rs2Of w))
  else if f7 = 0b0100000#7 ∧ f3 = 0b101#3 then .ok (.sraw (rdOf w) (rs1Of w) (rs2Of w))
  else .reject .unmapped

/-- The decoder, total on every 32-bit word (R131 to R135). `shamt6` is the parameter `Shamt6`. -/
def decode (shamt6 : Bool) (w : InstrWord) : Decoded :=
  let op := opcodeOf w
  if op = 0b0110111#7 then .ok (.lui (rdOf w) (immUOf w))
  else if op = 0b0010111#7 then .ok (.auipc (rdOf w) (immUOf w))
  else if op = 0b1101111#7 then .ok (.jal (rdOf w) (immUJOf w))
  else if op = 0b1100111#7 then
    if func3Of w = 0b000#3 then .ok (.jalr (rdOf w) (rs1Of w) (immIOf w)) else .reject .unmapped
  else if op = 0b1100011#7 then decodeBranch w
  else if op = 0b0000011#7 then decodeLoad w
  else if op = 0b0100011#7 then decodeStore w
  else if op = 0b0010011#7 then decodeOpImm shamt6 w
  else if op = 0b0011011#7 then decodeOpImm32 w
  else if op = 0b0110011#7 then decodeOp w
  else if op = 0b0111011#7 then decodeOp32 w
  else if op = 0b1110011#7 then if w = 0x00000073#32 then .ok .ecall else .reject .notEcall
  else .reject .noType

/-! ### Bytes (R91, R120) -/

/-- The little-endian word of four bytes, the first at the lowest address (R95). -/
def wordOfBytes (b0 b1 b2 b3 : Byte) : InstrWord := b3 ++ b2 ++ b1 ++ b0

/-- The four bytes of a word, the least significant first (R91). -/
def bytesOfWord (w : InstrWord) : List Byte :=
  [w.extractLsb' 0 8, w.extractLsb' 8 8, w.extractLsb' 16 8, w.extractLsb' 24 8]

/-- The instruction that some bytes begin with, and the bytes after it. -/
def decodeBytes (shamt6 : Bool) : List Byte → Decoded × List Byte
  | b0 :: b1 :: b2 :: b3 :: rest => (decode shamt6 (wordOfBytes b0 b1 b2 b3), rest)
  | _ => (.reject .truncated, [])

/-- The instruction the decoder reads from the word `w` of a row of spec/opcode_table.json, under the spec's choice
`Shamt6 = true`. -/
def decodeTableWord (nbits w : Nat) : Option Instr :=
  match (decodeBytes true (bytesOfWord (BitVec.ofNat 32 (w % 2 ^ nbits)))).1 with
  | .ok i => some i
  | .reject _ => none

/-! ### The decoded record (R36, R124) -/

/-- A decoded instruction: the raw word, its address and the operation. The other fields of R36 are functions of the word. -/
structure Inst where
  word : InstrWord
  addr : Word
  op : Instr
  deriving DecidableEq, Repr

def Inst.opcode (i : Inst) : BitVec 7 := opcodeOf i.word
def Inst.type (i : Inst) : Option Format := formatOf i.opcode
/-- 0 for S and SB (R124). -/
def Inst.rd (i : Inst) : Reg :=
  match i.type with
  | some .s | some .sb | none => 0
  | some .r | some .i | some .u | some .uj => rdOf i.word
/-- 0 for U and UJ. -/
def Inst.func3 (i : Inst) : BitVec 3 :=
  match i.type with
  | some .u | some .uj | none => 0
  | some .r | some .i | some .s | some .sb => func3Of i.word
/-- 0 for U and UJ. -/
def Inst.rs1 (i : Inst) : Reg :=
  match i.type with
  | some .u | some .uj | none => 0
  | some .r | some .i | some .s | some .sb => rs1Of i.word
/-- 0 for I, U and UJ. -/
def Inst.rs2 (i : Inst) : Reg :=
  match i.type with
  | some .i | some .u | some .uj | none => 0
  | some .r | some .s | some .sb => rs2Of i.word
/-- Kept for R and I, 0 otherwise. -/
def Inst.func7 (i : Inst) : BitVec 7 :=
  match i.type with
  | some .r | some .i => func7Of i.word
  | some .s | some .sb | some .u | some .uj | none => 0
/-- The sign-extended immediate of the type (R125 to R129). -/
def Inst.imm (i : Inst) : Word :=
  match i.type with
  | some .i => (immIOf i.word).signExtend 64
  | some .s => (immSOf i.word).signExtend 64
  | some .sb => (immSBOf i.word).signExtend 64
  | some .u => (immUOf i.word ++ 0#12).signExtend 64
  | some .uj => (immUJOf i.word).signExtend 64
  | some .r | none => 0

/-! ### The encoder -/

def packR (f7 : BitVec 7) (rs2 rs1 : Reg) (f3 : BitVec 3) (rd : Reg) (op : BitVec 7) : InstrWord :=
  f7 ++ rs2 ++ rs1 ++ f3 ++ rd ++ op
def packI (imm : BitVec 12) (rs1 : Reg) (f3 : BitVec 3) (rd : Reg) (op : BitVec 7) : InstrWord :=
  imm ++ rs1 ++ f3 ++ rd ++ op
def packS (imm : BitVec 12) (rs2 rs1 : Reg) (f3 : BitVec 3) (op : BitVec 7) : InstrWord :=
  imm.extractLsb' 5 7 ++ rs2 ++ rs1 ++ f3 ++ imm.extractLsb' 0 5 ++ op
def packSB (off : BitVec 13) (rs2 rs1 : Reg) (f3 : BitVec 3) (op : BitVec 7) : InstrWord :=
  off.extractLsb' 12 1 ++ off.extractLsb' 5 6 ++ rs2 ++ rs1 ++ f3 ++ off.extractLsb' 1 4 ++ off.extractLsb' 11 1 ++ op
def packU (imm : BitVec 20) (rd : Reg) (op : BitVec 7) : InstrWord := imm ++ rd ++ op
def packUJ (off : BitVec 21) (rd : Reg) (op : BitVec 7) : InstrWord :=
  off.extractLsb' 20 1 ++ off.extractLsb' 1 10 ++ off.extractLsb' 11 1 ++ off.extractLsb' 12 8 ++ rd ++ op

/-- The word of an instruction (R121, R122, R130). -/
def encode : Instr → InstrWord
  | .lui rd imm => packU imm rd 0b0110111#7
  | .auipc rd imm => packU imm rd 0b0010111#7
  | .jal rd off => packUJ off rd 0b1101111#7
  | .jalr rd rs1 imm => packI imm rs1 0b000#3 rd 0b1100111#7
  | .beq rs1 rs2 off => packSB off rs2 rs1 0b000#3 0b1100011#7
  | .bne rs1 rs2 off => packSB off rs2 rs1 0b001#3 0b1100011#7
  | .blt rs1 rs2 off => packSB off rs2 rs1 0b100#3 0b1100011#7
  | .bge rs1 rs2 off => packSB off rs2 rs1 0b101#3 0b1100011#7
  | .bltu rs1 rs2 off => packSB off rs2 rs1 0b110#3 0b1100011#7
  | .bgeu rs1 rs2 off => packSB off rs2 rs1 0b111#3 0b1100011#7
  | .lb rd rs1 imm => packI imm rs1 0b000#3 rd 0b0000011#7
  | .lh rd rs1 imm => packI imm rs1 0b001#3 rd 0b0000011#7
  | .lw rd rs1 imm => packI imm rs1 0b010#3 rd 0b0000011#7
  | .ld rd rs1 imm => packI imm rs1 0b011#3 rd 0b0000011#7
  | .lbu rd rs1 imm => packI imm rs1 0b100#3 rd 0b0000011#7
  | .lhu rd rs1 imm => packI imm rs1 0b101#3 rd 0b0000011#7
  | .lwu rd rs1 imm => packI imm rs1 0b110#3 rd 0b0000011#7
  | .sb rs1 rs2 imm => packS imm rs2 rs1 0b000#3 0b0100011#7
  | .sh rs1 rs2 imm => packS imm rs2 rs1 0b001#3 0b0100011#7
  | .sw rs1 rs2 imm => packS imm rs2 rs1 0b010#3 0b0100011#7
  | .sd rs1 rs2 imm => packS imm rs2 rs1 0b011#3 0b0100011#7
  | .addi rd rs1 imm => packI imm rs1 0b000#3 rd 0b0010011#7
  | .slti rd rs1 imm => packI imm rs1 0b010#3 rd 0b0010011#7
  | .sltiu rd rs1 imm => packI imm rs1 0b011#3 rd 0b0010011#7
  | .xori rd rs1 imm => packI imm rs1 0b100#3 rd 0b0010011#7
  | .ori rd rs1 imm => packI imm rs1 0b110#3 rd 0b0010011#7
  | .andi rd rs1 imm => packI imm rs1 0b111#3 rd 0b0010011#7
  | .slli rd rs1 shamt => packI (0b000000#6 ++ shamt) rs1 0b001#3 rd 0b0010011#7
  | .srli rd rs1 shamt => packI (0b000000#6 ++ shamt) rs1 0b101#3 rd 0b0010011#7
  | .srai rd rs1 shamt => packI (0b010000#6 ++ shamt) rs1 0b101#3 rd 0b0010011#7
  | .add rd rs1 rs2 => packR 0b0000000#7 rs2 rs1 0b000#3 rd 0b0110011#7
  | .sub rd rs1 rs2 => packR 0b0100000#7 rs2 rs1 0b000#3 rd 0b0110011#7
  | .sll rd rs1 rs2 => packR 0b0000000#7 rs2 rs1 0b001#3 rd 0b0110011#7
  | .slt rd rs1 rs2 => packR 0b0000000#7 rs2 rs1 0b010#3 rd 0b0110011#7
  | .sltu rd rs1 rs2 => packR 0b0000000#7 rs2 rs1 0b011#3 rd 0b0110011#7
  | .xor rd rs1 rs2 => packR 0b0000000#7 rs2 rs1 0b100#3 rd 0b0110011#7
  | .srl rd rs1 rs2 => packR 0b0000000#7 rs2 rs1 0b101#3 rd 0b0110011#7
  | .sra rd rs1 rs2 => packR 0b0100000#7 rs2 rs1 0b101#3 rd 0b0110011#7
  | .or rd rs1 rs2 => packR 0b0000000#7 rs2 rs1 0b110#3 rd 0b0110011#7
  | .and rd rs1 rs2 => packR 0b0000000#7 rs2 rs1 0b111#3 rd 0b0110011#7
  | .mul rd rs1 rs2 => packR 0b0000001#7 rs2 rs1 0b000#3 rd 0b0110011#7
  | .mulh rd rs1 rs2 => packR 0b0000001#7 rs2 rs1 0b001#3 rd 0b0110011#7
  | .div rd rs1 rs2 => packR 0b0000001#7 rs2 rs1 0b100#3 rd 0b0110011#7
  | .rem rd rs1 rs2 => packR 0b0000001#7 rs2 rs1 0b110#3 rd 0b0110011#7
  | .addiw rd rs1 imm => packI imm rs1 0b000#3 rd 0b0011011#7
  | .slliw rd rs1 shamt => packI (0b0000000#7 ++ shamt) rs1 0b001#3 rd 0b0011011#7
  | .srliw rd rs1 shamt => packI (0b0000000#7 ++ shamt) rs1 0b101#3 rd 0b0011011#7
  | .sraiw rd rs1 shamt => packI (0b0100000#7 ++ shamt) rs1 0b101#3 rd 0b0011011#7
  | .addw rd rs1 rs2 => packR 0b0000000#7 rs2 rs1 0b000#3 rd 0b0111011#7
  | .subw rd rs1 rs2 => packR 0b0100000#7 rs2 rs1 0b000#3 rd 0b0111011#7
  | .sllw rd rs1 rs2 => packR 0b0000000#7 rs2 rs1 0b001#3 rd 0b0111011#7
  | .srlw rd rs1 rs2 => packR 0b0000000#7 rs2 rs1 0b101#3 rd 0b0111011#7
  | .sraw rd rs1 rs2 => packR 0b0100000#7 rs2 rs1 0b101#3 rd 0b0111011#7
  | .ecall => packI 0b000000000000#12 0b00000#5 0b000#3 0b00000#5 0b1110011#7

/-- The bytes of an instruction as memory holds them (R91). -/
def encodeBytes (i : Instr) : List Byte := bytesOfWord (encode i)

/-! ### The opcode map (R121) -/

/-- One row of R121. -/
structure OpcodeRow where
  mnemonic : String
  val : InstrWord
  mask : InstrWord
  deriving DecidableEq, Repr

/-- A word matches a row when `w & mask = match` (R134). -/
def OpcodeRow.hits (r : OpcodeRow) (w : InstrWord) : Bool := w &&& r.mask == r.val

/-- Rows of R121. -/
def rowsUpper : List OpcodeRow :=
  [⟨"LUI", 0x00000037#32, 0x0000007F#32⟩,
   ⟨"AUIPC", 0x00000017#32, 0x0000007F#32⟩,
   ⟨"JAL", 0x0000006F#32, 0x0000007F#32⟩,
   ⟨"JALR", 0x00000067#32, 0x0000707F#32⟩]

/-- Rows of R121. -/
def rowsBranch : List OpcodeRow :=
  [⟨"BEQ", 0x00000063#32, 0x0000707F#32⟩,
   ⟨"BNE", 0x00001063#32, 0x0000707F#32⟩,
   ⟨"BLT", 0x00004063#32, 0x0000707F#32⟩,
   ⟨"BGE", 0x00005063#32, 0x0000707F#32⟩,
   ⟨"BLTU", 0x00006063#32, 0x0000707F#32⟩,
   ⟨"BGEU", 0x00007063#32, 0x0000707F#32⟩]

/-- Rows of R121. -/
def rowsLoad : List OpcodeRow :=
  [⟨"LB", 0x00000003#32, 0x0000707F#32⟩,
   ⟨"LH", 0x00001003#32, 0x0000707F#32⟩,
   ⟨"LW", 0x00002003#32, 0x0000707F#32⟩,
   ⟨"LD", 0x00003003#32, 0x0000707F#32⟩,
   ⟨"LBU", 0x00004003#32, 0x0000707F#32⟩,
   ⟨"LHU", 0x00005003#32, 0x0000707F#32⟩,
   ⟨"LWU", 0x00006003#32, 0x0000707F#32⟩]

/-- Rows of R121. -/
def rowsStore : List OpcodeRow :=
  [⟨"SB", 0x00000023#32, 0x0000707F#32⟩,
   ⟨"SH", 0x00001023#32, 0x0000707F#32⟩,
   ⟨"SW", 0x00002023#32, 0x0000707F#32⟩,
   ⟨"SD", 0x00003023#32, 0x0000707F#32⟩]

/-- Rows of R121. -/
def rowsOpImm : List OpcodeRow :=
  [⟨"ADDI", 0x00000013#32, 0x0000707F#32⟩,
   ⟨"SLTI", 0x00002013#32, 0x0000707F#32⟩,
   ⟨"SLTIU", 0x00003013#32, 0x0000707F#32⟩,
   ⟨"XORI", 0x00004013#32, 0x0000707F#32⟩,
   ⟨"ORI", 0x00006013#32, 0x0000707F#32⟩,
   ⟨"ANDI", 0x00007013#32, 0x0000707F#32⟩,
   ⟨"SLLI", 0x00001013#32, 0xFC00707F#32⟩,
   ⟨"SRLI", 0x00005013#32, 0xFC00707F#32⟩,
   ⟨"SRAI", 0x40005013#32, 0xFC00707F#32⟩]

/-- Rows of R121. -/
def rowsOp : List OpcodeRow :=
  [⟨"ADD", 0x00000033#32, 0xFE00707F#32⟩,
   ⟨"SUB", 0x40000033#32, 0xFE00707F#32⟩,
   ⟨"SLL", 0x00001033#32, 0xFE00707F#32⟩,
   ⟨"SLT", 0x00002033#32, 0xFE00707F#32⟩,
   ⟨"SLTU", 0x00003033#32, 0xFE00707F#32⟩,
   ⟨"XOR", 0x00004033#32, 0xFE00707F#32⟩,
   ⟨"SRL", 0x00005033#32, 0xFE00707F#32⟩,
   ⟨"SRA", 0x40005033#32, 0xFE00707F#32⟩,
   ⟨"OR", 0x00006033#32, 0xFE00707F#32⟩,
   ⟨"AND", 0x00007033#32, 0xFE00707F#32⟩]

/-- Rows of R121. -/
def rowsMul : List OpcodeRow :=
  [⟨"MUL", 0x02000033#32, 0xFE00707F#32⟩,
   ⟨"MULH", 0x02001033#32, 0xFE00707F#32⟩,
   ⟨"DIV", 0x02004033#32, 0xFE00707F#32⟩,
   ⟨"REM", 0x02006033#32, 0xFE00707F#32⟩]

/-- Rows of R121. -/
def rowsOpImm32 : List OpcodeRow :=
  [⟨"ADDIW", 0x0000001B#32, 0x0000707F#32⟩,
   ⟨"SLLIW", 0x0000101B#32, 0xFE00707F#32⟩,
   ⟨"SRLIW", 0x0000501B#32, 0xFE00707F#32⟩,
   ⟨"SRAIW", 0x4000501B#32, 0xFE00707F#32⟩]

/-- Rows of R121. -/
def rowsOp32 : List OpcodeRow :=
  [⟨"ADDW", 0x0000003B#32, 0xFE00707F#32⟩,
   ⟨"SUBW", 0x4000003B#32, 0xFE00707F#32⟩,
   ⟨"SLLW", 0x0000103B#32, 0xFE00707F#32⟩,
   ⟨"SRLW", 0x0000503B#32, 0xFE00707F#32⟩,
   ⟨"SRAW", 0x4000503B#32, 0xFE00707F#32⟩]

/-- Rows of R121. -/
def rowsSystem : List OpcodeRow :=
  [⟨"ECALL", 0x00000073#32, 0xFFFFFFFF#32⟩]

/-- The opcode map of R121, in its order of families. -/
def opcodeRows : List OpcodeRow :=
  rowsUpper ++ rowsBranch ++ rowsLoad ++ rowsStore ++ rowsOpImm ++ rowsOp ++ rowsMul ++ rowsOpImm32 ++ rowsOp32 ++ rowsSystem

/-- The operation's mnemonic, as R121 spells it. -/
def Instr.mnemonic : Instr → String
  | .lui _ _ => "LUI"
  | .auipc _ _ => "AUIPC"
  | .jal _ _ => "JAL"
  | .jalr _ _ _ => "JALR"
  | .beq _ _ _ => "BEQ"
  | .bne _ _ _ => "BNE"
  | .blt _ _ _ => "BLT"
  | .bge _ _ _ => "BGE"
  | .bltu _ _ _ => "BLTU"
  | .bgeu _ _ _ => "BGEU"
  | .lb _ _ _ => "LB"
  | .lh _ _ _ => "LH"
  | .lw _ _ _ => "LW"
  | .ld _ _ _ => "LD"
  | .lbu _ _ _ => "LBU"
  | .lhu _ _ _ => "LHU"
  | .lwu _ _ _ => "LWU"
  | .sb _ _ _ => "SB"
  | .sh _ _ _ => "SH"
  | .sw _ _ _ => "SW"
  | .sd _ _ _ => "SD"
  | .addi _ _ _ => "ADDI"
  | .slti _ _ _ => "SLTI"
  | .sltiu _ _ _ => "SLTIU"
  | .xori _ _ _ => "XORI"
  | .ori _ _ _ => "ORI"
  | .andi _ _ _ => "ANDI"
  | .slli _ _ _ => "SLLI"
  | .srli _ _ _ => "SRLI"
  | .srai _ _ _ => "SRAI"
  | .add _ _ _ => "ADD"
  | .sub _ _ _ => "SUB"
  | .sll _ _ _ => "SLL"
  | .slt _ _ _ => "SLT"
  | .sltu _ _ _ => "SLTU"
  | .xor _ _ _ => "XOR"
  | .srl _ _ _ => "SRL"
  | .sra _ _ _ => "SRA"
  | .or _ _ _ => "OR"
  | .and _ _ _ => "AND"
  | .mul _ _ _ => "MUL"
  | .mulh _ _ _ => "MULH"
  | .div _ _ _ => "DIV"
  | .rem _ _ _ => "REM"
  | .addiw _ _ _ => "ADDIW"
  | .slliw _ _ _ => "SLLIW"
  | .srliw _ _ _ => "SRLIW"
  | .sraiw _ _ _ => "SRAIW"
  | .addw _ _ _ => "ADDW"
  | .subw _ _ _ => "SUBW"
  | .sllw _ _ _ => "SLLW"
  | .srlw _ _ _ => "SRLW"
  | .sraw _ _ _ => "SRAW"
  | .ecall => "ECALL"

end Sys2Proof
end

