-- ==== Sys2Proof/Machine/State.lean ====
section
/-! DEFINITION. Everything the spec gives the machine, as plain data (10_state.md R20 to R47), the reasons a run stops, and the
state after reset (70_reset_and_hazards.md R402). -/

namespace Sys2Proof.Machine

/-! ### Pipeline registers (R30 to R35) -/

/-- One snapshot of a pipeline register. `slot = none` is `bubble = true`: the other fields of a bubble are unspecified and no
rule reads them (R30), so there are none. -/
structure Snap (α : Type) where
  slot : Option α
  stall : Bool
  deriving DecidableEq, Repr

/-- `bubble` written into a snapshot: `bubble = true, stall = false`. -/
def Snap.bubble {α : Type} : Snap α := { slot := none, stall := false }

/-- A snapshot that carries an instruction and is not held. -/
def Snap.of {α : Type} (x : α) : Snap α := { slot := some x, stall := false }

/-- Register `F` (R31). Its `pc`, the predicted-PC register, is read whether or not `bubble`, the fetch block, is set. -/
structure FReg where
  pc : Word
  bubble : Bool
  stall : Bool
  deriving DecidableEq, Repr

/-- Register `D`, fetch to decode (R32). -/
structure DSlot where
  pc : Word
  word : InstrWord
  predTaken : Bool
  predNext : Word
  deriving DecidableEq, Repr

/-- Register `E`, decode to execute (R33). -/
structure ESlot where
  pc : Word
  inst : Inst
  op1 : Word
  op2 : Word
  predTaken : Bool
  predNext : Word
  deriving DecidableEq, Repr

/-- Registers `M` and `W`, which have the same fields (R34, R35). -/
structure MSlot where
  pc : Word
  inst : Inst
  valE : Word
  valC : Word
  predOK : Bool
  deriving DecidableEq, Repr

/-! ### Memory, caches and translation (R39 to R43) -/

/-- Physical memory: the bytes that differ from what an unlisted address holds, by rising address (R43, log entry 5). -/
abbrev Memory := List Host.Cell

/-- One line of a cache (R39). -/
structure CacheLine where
  valid : Bool
  dirty : Bool
  tag : Nat
  recency : Nat
  promoted : Bool
  data : List Byte
  deriving DecidableEq, Repr

/-- One cache level: its lines, by set and way, its tick and its statistics (R39, R40). -/
structure Level where
  sets : List (List CacheLine)
  tick : Nat
  accesses : Nat
  hits : Nat
  misses : Nat
  writebacks : Nat
  deriving DecidableEq, Repr

/-- The storage chain below the pipeline: the cache levels, L1 first, and physical memory (R67). `fresh` is the MODEL's own
counter for the free bytes of log entry 4. -/
structure Storage where
  levels : List Level
  pmem : Memory
  fresh : Nat
  deriving DecidableEq, Repr

/-- A page-table entry (R41). -/
structure PageEntry where
  ppn : Word
  valid : Bool
  deriving DecidableEq, Repr

/-! ### Run status, events, counters (R45 to R47) -/

/-- The stages of a cycle (R10). -/
inductive Stage where
  | fetch | decode | execute | memory | writeBack
  deriving DecidableEq, Repr

/-- Why a translation failed (R62 to R64). -/
inductive TranslationKind where
  | misaligned | unmapped
  deriving DecidableEq, Repr

/-- A layer of the storage chain (R67): cache level `i`, counted from 1, or Memory. -/
inductive LayerName where
  | cache (i : Nat)
  | memory
  deriving DecidableEq, Repr

/-- The fatal error kinds with their information records (R300). -/
inductive FatalKind where
  /-- Decode: no row of R121 matches the word (R303). -/
  | decodeError (addr : Word) (word : InstrWord)
  /-- Fetch, MemoryAccess or a string read of WriteBack (R304, R305, R306). -/
  | translationError (stage : Stage) (kind : TranslationKind) (vaddr : Word) (size : Nat)
  /-- A storage request that does not fit a line or memory (R307). -/
  | boundsError (layer : LayerName) (addr bytes : Nat)
  /-- WriteBack of an ECALL with an unlisted `a7` (R308). -/
  | unknownSyscall (pc a7 : Word)
  /-- The loader, before cycle 0 (R309). -/
  | frameExhausted (vpn : Nat)
  /-- Execute of DIV or REM (R310). -/
  | divFault (pc a b : Word)
  /-- Execute of JALR (R311). -/
  | jalrOddTarget (pc t : Word)
  deriving DecidableEq, Repr

/-- The run status (R46). -/
inductive Status where
  | running
  | exited
  | fatal (k : FatalKind)
  deriving DecidableEq, Repr

/-- Host output events (R262). -/
inductive Event where
  | printInt (v : Word)
  | printChar (c : Byte)
  | printStr (bytes : List Byte) (truncated : Bool)
  | exit (code : Word)
  deriving DecidableEq, Repr

/-- The performance counters (R45). -/
structure Counters where
  steps : Nat
  cycleCount : Nat
  instCount : Nat
  branchCount : Nat
  branchCorrect : Nat
  controlHazards : Nat
  loadUseStalls : Nat
  deriving DecidableEq, Repr

/-- Where the machine is inside a cycle. MODEL's own (log entry 6): between cycles it is `between`; during a cycle it says which
stage's part of an instruction `exec` performs. -/
inductive Phase where
  | between | decode | execute | memory | writeBack
  deriving DecidableEq, Repr

/-- The signals of the cycle in progress (R10): the largest stage cost reported so far (R440, R444) and which sources of `E.nxt`
have been forwarded (R430). All of it is at its starting value between cycles. -/
structure Signals where
  phase : Phase
  cost : Nat
  fwd1 : Bool
  fwd2 : Bool
  deriving DecidableEq, Repr

/-- No cycle in progress. -/
def Signals.idle : Signals := { phase := .between, cost := 0, fwd1 := false, fwd2 := false }

/-! ### The state -/

/-- The machine: every piece of state of 10_state.md. -/
structure State where
  /-- the construction-time settings (R29); no step changes them -/
  cfg : Config
  /-- `x0` to `x31` (R20); `x0` is read through `readReg` -/
  regs : Vector Word 32
  fCur : FReg
  fNxt : FReg
  dCur : Snap DSlot
  dNxt : Snap DSlot
  eCur : Snap ESlot
  eNxt : Snap ESlot
  mCur : Snap MSlot
  mNxt : Snap MSlot
  wCur : Snap MSlot
  wNxt : Snap MSlot
  /-- the predictor table `BHT` (R38) -/
  bht : List (Fin 4)
  /-- caches and physical memory (R39, R40, R43) -/
  storage : Storage
  /-- the page table `PT`, by rising virtual page number (R41) -/
  pt : List (Nat × PageEntry)
  /-- the free-frame pool `Free`, rising (R42) -/
  free : List Nat
  ctr : Counters
  status : Status
  /-- the output events, oldest first (R47) -/
  out : List Event
  /-- the values of the input stream `In` supplied with the launch state and not yet read (R47) -/
  input : List Word
  /-- MODEL's own: how many values have been read, the argument of `Config.freeInput` (log entry 3) -/
  inputPos : Nat
  sig : Signals
  deriving DecidableEq, Repr

/-! ### Why a step has no next state -/

/-- The step has no successor because the run has ended (R46, R272). Both are safe: nothing happens after the end. -/
inductive Fault where
  /-- `step` of a state whose status is `Exited` (R269). Safe. -/
  | afterExit
  /-- `step` of a state whose status is `Fatal` (R302). Safe. -/
  | afterFatal (k : FatalKind)
  deriving DecidableEq, Repr

/-- The model has no run. -/
inductive Refusal where
  /-- `exec` of an instruction that has no meaning yet: none. Safe. -/
  | notModelled (mnemonic : String)
  /-- `step` under a configuration that breaks R7 (R312, I2, I3). Safe. -/
  | configNotAdmitted
  deriving DecidableEq, Repr

/-! ### The launch state (R402) -/

/-- What the external loader and the host decide before cycle 0 (R6 "launch state", R271). The page table and the pool are those
`AllocatePage` built (R65, R403); `pmem` lists the bytes of the physical image that are not the unlisted value. -/
structure Launch where
  cfg : Config
  entry : Word
  regs : Vector Word 32
  pt : List (Nat × PageEntry)
  free : List Nat
  pmem : Memory
  input : List Word
  deriving DecidableEq, Repr

/-- A line at reset: invalid, clean, unpromoted, recency 0 (R39). Its tag and data are not read while it is invalid. -/
def CacheLine.empty (n : Nat) : CacheLine where
  valid := false
  dirty := false
  tag := 0
  recency := 0
  promoted := false
  data := List.replicate n 0

/-- A level at reset (R39, R40). -/
def Level.empty (c : LevelCfg) : Level where
  sets := List.replicate c.sets (List.replicate c.assoc (CacheLine.empty c.lineSize))
  tick := 0
  accesses := 0
  hits := 0
  misses := 0
  writebacks := 0

/-- All counters 0 (R45). -/
def Counters.zero : Counters where
  steps := 0
  cycleCount := 0
  instCount := 0
  branchCount := 0
  branchCorrect := 0
  controlHazards := 0
  loadUseStalls := 0

/-- The launch state of R402. `F.nxt` is unspecified there and Fetch writes it before any read; it starts equal to `F.cur`. -/
def State.launch (l : Launch) : State where
  cfg := l.cfg
  regs := l.regs.set 0 0
  fCur := { pc := l.entry, bubble := false, stall := false }
  fNxt := { pc := l.entry, bubble := false, stall := false }
  dCur := Snap.bubble
  dNxt := Snap.bubble
  eCur := Snap.bubble
  eNxt := Snap.bubble
  mCur := Snap.bubble
  mNxt := Snap.bubble
  wCur := Snap.bubble
  wNxt := Snap.bubble
  bht := List.replicate l.cfg.tableSize l.cfg.predInit
  storage := { levels := l.cfg.levels.map Level.empty, pmem := l.pmem, fresh := 0 }
  pt := l.pt
  free := l.free
  ctr := Counters.zero
  status := .running
  out := []
  input := l.input
  inputPos := 0
  sig := Signals.idle

/-- A launch for which the loader has loaded nothing: the values the spec leaves OPEN are named in log entries 2, 7 and 8. -/
def Launch.nothing (cfg : Config) : Launch where
  cfg := cfg
  entry := 0
  regs := Vector.replicate 32 0
  pt := []
  free := List.range (cfg.physMemSize / cfg.pageSize)
  pmem := []
  input := []

/-- The machine right after reset: the launch state of R402 with nothing loaded. -/
def State.reset : State := State.launch (Launch.nothing Config.standard)

end Sys2Proof.Machine
end

