-- ==== Sys2Proof/Machine/Operands.lean ====
section
/-! DEFINITION. Operand forms: the immediates and shift amounts (30_encoding.md R125 to R130), the 32-bit forms (40_integer.md
section 5), which registers an instruction reads and writes (R139), its cost class (70_reset_and_hazards.md R442), and what Fetch
makes of a word before it is decoded (R138). -/

namespace Sys2Proof.Machine

/-! ### Immediates -/

/-- I-immediate: `sext_12` (R125). -/
def immI (imm : BitVec 12) : Word := imm.signExtend 64
/-- S-immediate: `sext_12` (R126). -/
def immS (imm : BitVec 12) : Word := imm.signExtend 64
/-- SB-immediate: `sext_13` (R127). -/
def immSB (off : BitVec 13) : Word := off.signExtend 64
/-- U-immediate: `sext_32` of the 20 bits over twelve zeros (R128). -/
def immU (imm : BitVec 20) : Word := (imm ++ 0#12).signExtend 64
/-- UJ-immediate: `sext_21` (R129). -/
def immUJ (off : BitVec 21) : Word := off.signExtend 64

/-! ### Words -/

/-- `v[31:0]`. -/
def low32 (v : Word) : BitVec 32 := v.setWidth 32
/-- `sext_32` of a 32-bit result. -/
def sext32 (v : BitVec 32) : Word := v.signExtend 64
/-- `W32(v) = sext_32(v[31:0])` (40_integer.md section 5). -/
def w32 (v : Word) : Word := sext32 (low32 v)
/-- The amount of a 64-bit register shift, `b[5:0]` (R165). -/
def amount6 (b : Word) : Nat := (b.extractLsb' 0 6).toNat
/-- The amount of a 32-bit register shift, `b[4:0]` (R179). -/
def amount5 (b : Word) : Nat := (b.extractLsb' 0 5).toNat
/-- 1 if the comparison holds, else 0 (R155). -/
def flagWord (c : Bool) : Word := if c then 1 else 0
/-- `sext_8n` or `zext_8n` of a loaded value of `n` bytes (R230). -/
def extend (n : Nat) (signed : Bool) (v : Word) : Word :=
  if signed then (v.setWidth (8 * n)).signExtend 64 else (v.setWidth (8 * n)).setWidth 64

/-! ### Cost classes (R441, R442) -/

/-- An operation class of the cost table. -/
inductive OpClass where
  | add64 | add32 | mul64 | div64
  deriving DecidableEq, Repr

/-- `Cost[c]` (R441). -/
def costOf (t : CostTable) : OpClass → Nat
  | .add64 => t.add64
  | .add32 => t.add32
  | .mul64 => t.mul64
  | .div64 => t.div64

/-! ### Pre-decoding (R138, R412) -/

/-- What Fetch can tell of a word from its opcode alone. -/
inductive FetchKind where
  | branch (off : BitVec 13)
  | jal (off : BitVec 21)
  | jalr
  | other
  deriving DecidableEq, Repr

/-- Fetch looks at `w[6:0]` only, so a word with the branch opcode and an illegal func3 is still predicted (R138). -/
def preDecode (w : InstrWord) : FetchKind :=
  if opcodeOf w = 0b1100011#7 then .branch (immSBOf w)
  else if opcodeOf w = 0b1101111#7 then .jal (immUJOf w)
  else if opcodeOf w = 0b1100111#7 then .jalr
  else .other

end Sys2Proof.Machine

namespace Sys2Proof

/-! ### Registers read and written (R139) -/

/-- The sources `s1` and `s2`. ECALL reads `a0` (x10) and `a7` (x17). -/
def Instr.srcs : Instr → Option Reg × Option Reg
  | .lui _ _ => (none, none)
  | .auipc _ _ => (none, none)
  | .jal _ _ => (none, none)
  | .jalr _ rs1 _ => (some rs1, none)
  | .beq rs1 rs2 _ => (some rs1, some rs2)
  | .bne rs1 rs2 _ => (some rs1, some rs2)
  | .blt rs1 rs2 _ => (some rs1, some rs2)
  | .bge rs1 rs2 _ => (some rs1, some rs2)
  | .bltu rs1 rs2 _ => (some rs1, some rs2)
  | .bgeu rs1 rs2 _ => (some rs1, some rs2)
  | .lb _ rs1 _ => (some rs1, none)
  | .lh _ rs1 _ => (some rs1, none)
  | .lw _ rs1 _ => (some rs1, none)
  | .ld _ rs1 _ => (some rs1, none)
  | .lbu _ rs1 _ => (some rs1, none)
  | .lhu _ rs1 _ => (some rs1, none)
  | .lwu _ rs1 _ => (some rs1, none)
  | .sb rs1 rs2 _ => (some rs1, some rs2)
  | .sh rs1 rs2 _ => (some rs1, some rs2)
  | .sw rs1 rs2 _ => (some rs1, some rs2)
  | .sd rs1 rs2 _ => (some rs1, some rs2)
  | .addi _ rs1 _ => (some rs1, none)
  | .slti _ rs1 _ => (some rs1, none)
  | .sltiu _ rs1 _ => (some rs1, none)
  | .xori _ rs1 _ => (some rs1, none)
  | .ori _ rs1 _ => (some rs1, none)
  | .andi _ rs1 _ => (some rs1, none)
  | .slli _ rs1 _ => (some rs1, none)
  | .srli _ rs1 _ => (some rs1, none)
  | .srai _ rs1 _ => (some rs1, none)
  | .add _ rs1 rs2 => (some rs1, some rs2)
  | .sub _ rs1 rs2 => (some rs1, some rs2)
  | .sll _ rs1 rs2 => (some rs1, some rs2)
  | .slt _ rs1 rs2 => (some rs1, some rs2)
  | .sltu _ rs1 rs2 => (some rs1, some rs2)
  | .xor _ rs1 rs2 => (some rs1, some rs2)
  | .srl _ rs1 rs2 => (some rs1, some rs2)
  | .sra _ rs1 rs2 => (some rs1, some rs2)
  | .or _ rs1 rs2 => (some rs1, some rs2)
  | .and _ rs1 rs2 => (some rs1, some rs2)
  | .mul _ rs1 rs2 => (some rs1, some rs2)
  | .mulh _ rs1 rs2 => (some rs1, some rs2)
  | .div _ rs1 rs2 => (some rs1, some rs2)
  | .rem _ rs1 rs2 => (some rs1, some rs2)
  | .addiw _ rs1 _ => (some rs1, none)
  | .slliw _ rs1 _ => (some rs1, none)
  | .srliw _ rs1 _ => (some rs1, none)
  | .sraiw _ rs1 _ => (some rs1, none)
  | .addw _ rs1 rs2 => (some rs1, some rs2)
  | .subw _ rs1 rs2 => (some rs1, some rs2)
  | .sllw _ rs1 rs2 => (some rs1, some rs2)
  | .srlw _ rs1 rs2 => (some rs1, some rs2)
  | .sraw _ rs1 rs2 => (some rs1, some rs2)
  | .ecall => (some 10, some 17)

/-- The destination `rd` of the instructions that write one; `rd = 0` is still named here. -/
def Instr.dst : Instr → Option Reg
  | .lui rd _ => some rd
  | .auipc rd _ => some rd
  | .jal rd _ => some rd
  | .jalr rd _ _ => some rd
  | .beq _ _ _ => none
  | .bne _ _ _ => none
  | .blt _ _ _ => none
  | .bge _ _ _ => none
  | .bltu _ _ _ => none
  | .bgeu _ _ _ => none
  | .lb rd _ _ => some rd
  | .lh rd _ _ => some rd
  | .lw rd _ _ => some rd
  | .ld rd _ _ => some rd
  | .lbu rd _ _ => some rd
  | .lhu rd _ _ => some rd
  | .lwu rd _ _ => some rd
  | .sb _ _ _ => none
  | .sh _ _ _ => none
  | .sw _ _ _ => none
  | .sd _ _ _ => none
  | .addi rd _ _ => some rd
  | .slti rd _ _ => some rd
  | .sltiu rd _ _ => some rd
  | .xori rd _ _ => some rd
  | .ori rd _ _ => some rd
  | .andi rd _ _ => some rd
  | .slli rd _ _ => some rd
  | .srli rd _ _ => some rd
  | .srai rd _ _ => some rd
  | .add rd _ _ => some rd
  | .sub rd _ _ => some rd
  | .sll rd _ _ => some rd
  | .slt rd _ _ => some rd
  | .sltu rd _ _ => some rd
  | .xor rd _ _ => some rd
  | .srl rd _ _ => some rd
  | .sra rd _ _ => some rd
  | .or rd _ _ => some rd
  | .and rd _ _ => some rd
  | .mul rd _ _ => some rd
  | .mulh rd _ _ => some rd
  | .div rd _ _ => some rd
  | .rem rd _ _ => some rd
  | .addiw rd _ _ => some rd
  | .slliw rd _ _ => some rd
  | .srliw rd _ _ => some rd
  | .sraiw rd _ _ => some rd
  | .addw rd _ _ => some rd
  | .subw rd _ _ => some rd
  | .sllw rd _ _ => some rd
  | .srlw rd _ _ => some rd
  | .sraw rd _ _ => some rd
  | .ecall => none

/-- The seven loads (R432). -/
def Instr.isLoad : Instr → Bool
  | .lui _ _ => false
  | .auipc _ _ => false
  | .jal _ _ => false
  | .jalr _ _ _ => false
  | .beq _ _ _ => false
  | .bne _ _ _ => false
  | .blt _ _ _ => false
  | .bge _ _ _ => false
  | .bltu _ _ _ => false
  | .bgeu _ _ _ => false
  | .lb _ _ _ => true
  | .lh _ _ _ => true
  | .lw _ _ _ => true
  | .ld _ _ _ => true
  | .lbu _ _ _ => true
  | .lhu _ _ _ => true
  | .lwu _ _ _ => true
  | .sb _ _ _ => false
  | .sh _ _ _ => false
  | .sw _ _ _ => false
  | .sd _ _ _ => false
  | .addi _ _ _ => false
  | .slti _ _ _ => false
  | .sltiu _ _ _ => false
  | .xori _ _ _ => false
  | .ori _ _ _ => false
  | .andi _ _ _ => false
  | .slli _ _ _ => false
  | .srli _ _ _ => false
  | .srai _ _ _ => false
  | .add _ _ _ => false
  | .sub _ _ _ => false
  | .sll _ _ _ => false
  | .slt _ _ _ => false
  | .sltu _ _ _ => false
  | .xor _ _ _ => false
  | .srl _ _ _ => false
  | .sra _ _ _ => false
  | .or _ _ _ => false
  | .and _ _ _ => false
  | .mul _ _ _ => false
  | .mulh _ _ _ => false
  | .div _ _ _ => false
  | .rem _ _ _ => false
  | .addiw _ _ _ => false
  | .slliw _ _ _ => false
  | .srliw _ _ _ => false
  | .sraiw _ _ _ => false
  | .addw _ _ _ => false
  | .subw _ _ _ => false
  | .sllw _ _ _ => false
  | .srlw _ _ _ => false
  | .sraw _ _ _ => false
  | .ecall => false

/-- The class of an operation (R442). -/
def Instr.opClass : Instr → Machine.OpClass
  | .lui _ _ => .add64
  | .auipc _ _ => .add64
  | .jal _ _ => .add64
  | .jalr _ _ _ => .add64
  | .beq _ _ _ => .add64
  | .bne _ _ _ => .add64
  | .blt _ _ _ => .add64
  | .bge _ _ _ => .add64
  | .bltu _ _ _ => .add64
  | .bgeu _ _ _ => .add64
  | .lb _ _ _ => .add64
  | .lh _ _ _ => .add64
  | .lw _ _ _ => .add64
  | .ld _ _ _ => .add64
  | .lbu _ _ _ => .add64
  | .lhu _ _ _ => .add64
  | .lwu _ _ _ => .add64
  | .sb _ _ _ => .add64
  | .sh _ _ _ => .add64
  | .sw _ _ _ => .add64
  | .sd _ _ _ => .add64
  | .addi _ _ _ => .add64
  | .slti _ _ _ => .add64
  | .sltiu _ _ _ => .add64
  | .xori _ _ _ => .add64
  | .ori _ _ _ => .add64
  | .andi _ _ _ => .add64
  | .slli _ _ _ => .add64
  | .srli _ _ _ => .add64
  | .srai _ _ _ => .add64
  | .add _ _ _ => .add64
  | .sub _ _ _ => .add64
  | .sll _ _ _ => .add64
  | .slt _ _ _ => .add64
  | .sltu _ _ _ => .add64
  | .xor _ _ _ => .add64
  | .srl _ _ _ => .add64
  | .sra _ _ _ => .add64
  | .or _ _ _ => .add64
  | .and _ _ _ => .add64
  | .mul _ _ _ => .mul64
  | .mulh _ _ _ => .mul64
  | .div _ _ _ => .div64
  | .rem _ _ _ => .div64
  | .addiw _ _ _ => .add32
  | .slliw _ _ _ => .add32
  | .srliw _ _ _ => .add32
  | .sraiw _ _ _ => .add32
  | .addw _ _ _ => .add32
  | .subw _ _ _ => .add32
  | .sllw _ _ _ => .add32
  | .srlw _ _ _ => .add32
  | .sraw _ _ _ => .add32
  | .ecall => .add64

/-- What Fetch made of the word of a decoded instruction (R138). -/
def Instr.fetchKind : Instr → Machine.FetchKind
  | .lui _ _ => .other
  | .auipc _ _ => .other
  | .jal _ off => .jal off
  | .jalr _ _ _ => .jalr
  | .beq _ _ off => .branch off
  | .bne _ _ off => .branch off
  | .blt _ _ off => .branch off
  | .bge _ _ off => .branch off
  | .bltu _ _ off => .branch off
  | .bgeu _ _ off => .branch off
  | .lb _ _ _ => .other
  | .lh _ _ _ => .other
  | .lw _ _ _ => .other
  | .ld _ _ _ => .other
  | .lbu _ _ _ => .other
  | .lhu _ _ _ => .other
  | .lwu _ _ _ => .other
  | .sb _ _ _ => .other
  | .sh _ _ _ => .other
  | .sw _ _ _ => .other
  | .sd _ _ _ => .other
  | .addi _ _ _ => .other
  | .slti _ _ _ => .other
  | .sltiu _ _ _ => .other
  | .xori _ _ _ => .other
  | .ori _ _ _ => .other
  | .andi _ _ _ => .other
  | .slli _ _ _ => .other
  | .srli _ _ _ => .other
  | .srai _ _ _ => .other
  | .add _ _ _ => .other
  | .sub _ _ _ => .other
  | .sll _ _ _ => .other
  | .slt _ _ _ => .other
  | .sltu _ _ _ => .other
  | .xor _ _ _ => .other
  | .srl _ _ _ => .other
  | .sra _ _ _ => .other
  | .or _ _ _ => .other
  | .and _ _ _ => .other
  | .mul _ _ _ => .other
  | .mulh _ _ _ => .other
  | .div _ _ _ => .other
  | .rem _ _ _ => .other
  | .addiw _ _ _ => .other
  | .slliw _ _ _ => .other
  | .srliw _ _ _ => .other
  | .sraiw _ _ _ => .other
  | .addw _ _ _ => .other
  | .subw _ _ _ => .other
  | .sllw _ _ _ => .other
  | .srlw _ _ _ => .other
  | .sraw _ _ _ => .other
  | .ecall => .other

end Sys2Proof
end

