-- ==== Sys2Proof/Machine/Flags.lean ====
section
/-! DEFINITION. The block has no status flags or condition codes (10_state.md R27): a branch compares two registers. This file
holds the comparisons, which are the only conditions an instruction computes (41_control.md R201 to R206; 40_integer.md R155,
R156, R166, R167). -/

namespace Sys2Proof.Machine

/-- `a = b` (R201). -/
def condEq (a b : Word) : Bool := a == b
/-- `a ≠ b` (R202). -/
def condNe (a b : Word) : Bool := a != b
/-- `s64(a) < s64(b)` (R166, R203). -/
def condLt (a b : Word) : Bool := decide (a.toInt < b.toInt)
/-- `s64(a) >= s64(b)` (R204). -/
def condGe (a b : Word) : Bool := decide (b.toInt ≤ a.toInt)
/-- `a <u b` (R167, R205). -/
def condLtu (a b : Word) : Bool := decide (a.toNat < b.toNat)
/-- `a >=u b` (R206). -/
def condGeu (a b : Word) : Bool := decide (b.toNat ≤ a.toNat)

end Sys2Proof.Machine
end

