-- ==== Sys2Proof/Machine/Ops.lean ====
section
/-! DEFINITION. The named operations over registers, memory bytes, counters and the run status. `raise` is the machine's one way
of taking an error (60_exceptions.md R302); there is no return from one (R301, R316). -/

namespace Sys2Proof.Machine

/-! ### Registers (R21, R22) -/

/-- `x[r]`: 0 for `x0` (R21). -/
def readReg (s : State) (r : Reg) : Word := if r = 0 then 0 else s.regs[r.toNat]'(r.isLt)

/-- `x[r] <- v`: discarded for `x0` (R21). -/
def writeReg (r : Reg) (v : Word) (s : State) : State :=
  if r = 0 then s else { s with regs := s.regs.set r.toNat v (r.isLt) }

/-- The value of a source operand; an operand the instruction does not read is 0 (R33, R420). -/
def readSrc (s : State) : Option Reg → Word
  | some r => readReg s r
  | none => 0

/-- The write of `rd` by WriteBack, for the instructions that have one (R427). -/
def writeDst (d : Option Reg) (v : Word) (s : State) : State :=
  match d with
  | some r => writeReg r v s
  | none => s

/-- `a0` (R20). -/
def regA0 : Reg := 10
/-- `a7` (R20). -/
def regA7 : Reg := 17

/-! ### Run status and events -/

/-- `raise K(info)` (R302): the status becomes `Fatal`. The caller does no further work and the cycle ends there (`endsCycle`);
every change made before stands (R314). -/
def raise (k : FatalKind) (s : State) : State := { s with status := .fatal k }

/-- The run has ended in a fatal error. -/
def Status.isFatal : Status → Bool
  | .fatal _ => true
  | .running | .exited => false

/-- `emit e` (R262). -/
def emit (e : Event) (s : State) : State := { s with out := s.out ++ [e] }

/-- `next(In)` (R267): the next supplied value, or a free value once they are used up (log entry 3). -/
def nextInput (s : State) : Word × State :=
  match s.input with
  | v :: rest => (v, { s with input := rest, inputPos := s.inputPos + 1 })
  | [] => (Config.freeInput s.inputPos, { s with inputPos := s.inputPos + 1 })

/-! ### Counters (R45) -/

/-- One more retired instruction (R427). -/
def countInst (s : State) : State := { s with ctr := { s.ctr with instCount := s.ctr.instCount + 1 } }

/-- One more retired conditional branch, and a correct one if `ok` (R427). -/
def countBranch (ok : Bool) (s : State) : State :=
  { s with ctr := { s.ctr with
      branchCount := s.ctr.branchCount + 1
      branchCorrect := s.ctr.branchCorrect + (if ok then 1 else 0) } }

/-- One more control hazard (R423, R424). -/
def countHazard (s : State) : State := { s with ctr := { s.ctr with controlHazards := s.ctr.controlHazards + 1 } }

/-- One more load-use hold (R432). -/
def countLoadUse (s : State) : State := { s with ctr := { s.ctr with loadUseStalls := s.ctr.loadUseStalls + 1 } }

/-- An active stage reports its cost; the cycle keeps the largest (R440, R444). -/
def report (cost : Nat) (s : State) : State := { s with sig := { s.sig with cost := max s.sig.cost cost } }

/-! ### Bytes of memory (R43, R91) -/

/-- What an address holds that `Memory` does not list. DESIGN CHOICE (log entry 5). -/
def Memory.blank : Byte := 0

/-- The canonical form: addresses rise strictly and no listed byte is the unlisted value. -/
abbrev Memory.wf (m : Memory) : Prop := m.Pairwise (fun x y => x.1 < y.1) ∧ ∀ c ∈ m, c.2 ≠ Memory.blank

/-- The byte at an address. -/
def Memory.read : Memory → Nat → Byte
  | [], _ => Memory.blank
  | (a, b) :: m, p => if a = p then b else Memory.read m p

/-- The memory after a byte is stored, again in canonical form. -/
def Memory.write : Memory → Nat → Byte → Memory
  | [], p, v => if v = Memory.blank then [] else [(p, v)]
  | (a, b) :: m, p, v =>
    if p < a then if v = Memory.blank then (a, b) :: m else (p, v) :: (a, b) :: m
    else if p = a then if v = Memory.blank then m else (p, v) :: m
    else (a, b) :: Memory.write m p v

/-- `PMem[p .. p+n-1]` (R89). -/
def Memory.readBytes (m : Memory) (p n : Nat) : List Byte := (List.range n).map fun k => m.read (p + k)

/-- `PMem[p ..] <- bytes` (R89). -/
def Memory.writeBytes : Memory → Nat → List Byte → Memory
  | m, _, [] => m
  | m, p, b :: bs => Memory.writeBytes (m.write p b) (p + 1) bs

/-- `sum_{k<n} buf[k] << 8k` (R93). -/
def valueOf : List Byte → Word
  | [] => 0
  | b :: bs => b.setWidth 64 ||| (valueOf bs <<< 8)

/-- `byte k = v[8k+7 : 8k]` for k < n (R91, R94). -/
def bytesOf (n : Nat) (v : Word) : List Byte := (List.range n).map fun k => v.extractLsb' (8 * k) 8

end Sys2Proof.Machine
end

