-- ==== Sys2Proof/Machine/Predictor.lean ====
section
/-! DEFINITION. The branch predictor (70_reset_and_hazards.md R460 to R466). -/

namespace Sys2Proof.Machine

/-- The entry of a branch at `pc`: `(pc >> 2) mod TableSize` (R460). -/
def bhtIndex (cfg : Config) (pc : Word) : Nat := (pc >>> 2).toNat % cfg.tableSize

/-- `BHT[i]`. -/
def bhtEntry (s : State) (pc : Word) : Fin 4 := s.bht.getD (bhtIndex s.cfg pc) s.cfg.predInit

/-- The prediction an entry makes (R461 to R464). -/
def predictFrom : PredStrategy → Fin 4 → Bool
  | .alwaysNotTaken, _ => false
  | .alwaysTaken, _ => true
  | .oneBit, e => e == 1
  | .twoBit, e => decide (2 ≤ e.val)
  | .twoBitAlt, e => decide (2 ≤ e.val)

/-- One-bit: on a misprediction, `1 - BHT[i]` (R462). -/
def oneBitNext (e : Fin 4) (taken : Bool) : Fin 4 := if (e == 1) != taken then 1 - e else e

/-- Two-bit saturating counter (R463). -/
def twoBitNext (e : Fin 4) (taken : Bool) : Fin 4 :=
  if taken then if e = 3 then 3 else e + 1
  else if e = 0 then 0 else e - 1

/-- The transition table of the two-bit alternative (R464). -/
def twoBitAltNext (e : Fin 4) (taken : Bool) : Fin 4 :=
  if taken then if e = 0 then 1 else 3
  else if e = 3 then 2 else 0

/-- The entry after an outcome (R461 to R464). -/
def entryNext : PredStrategy → Fin 4 → Bool → Fin 4
  | .alwaysNotTaken, e, _ => e
  | .alwaysTaken, e, _ => e
  | .oneBit, e, taken => oneBitNext e taken
  | .twoBit, e, taken => twoBitNext e taken
  | .twoBitAlt, e, taken => twoBitAltNext e taken

/-- `Predict(pc)` (R466). -/
def predict (s : State) (pc : Word) : Bool := predictFrom s.cfg.predStrategy (bhtEntry s pc)

/-- `Update(pc, taken)` (R465). -/
def updatePredictor (pc : Word) (taken : Bool) (s : State) : State :=
  { s with bht := s.bht.set (bhtIndex s.cfg pc) (entryNext s.cfg.predStrategy (bhtEntry s pc) taken) }

end Sys2Proof.Machine
end

