-- ==== Sys2Proof/Machine/Storage.lean ====
section
/-! DEFINITION. The storage chain L1, L2, L3, Memory (20_memory.md sections 2 and 3): one request handled to completion (R69), and
the architectural memory view (R97). A request that raises answers `bounds` with the state changed so far. -/

namespace Sys2Proof

/-! ### Address decomposition (R70) -/

def LevelCfg.off (c : LevelCfg) (a : Nat) : Nat := a % c.lineSize
def LevelCfg.set (c : LevelCfg) (a : Nat) : Nat := (a / c.lineSize) % c.sets
def LevelCfg.tag (c : LevelCfg) (a : Nat) : Nat := a / (c.lineSize * c.sets)
def LevelCfg.base (c : LevelCfg) (a : Nat) : Nat := a - a % c.lineSize
/-- The line address of set `s` and tag `t`. -/
def LevelCfg.lineAddr (c : LevelCfg) (s t : Nat) : Nat := (t * c.sets + s) * c.lineSize

end Sys2Proof

namespace Sys2Proof.Machine

/-! ### Requests and answers (R68) -/

/-- A request: `bytes` bytes at physical address `addr`, with the data of a write. -/
structure Req where
  addr : Nat
  bytes : Nat
  isRead : Bool
  buf : List Byte
  isPrefetch : Bool
  deriving DecidableEq, Repr

/-- The answer: the buffer, hit and time of R68, or the `BoundsError` the request raised (R307). -/
inductive Reply where
  | ok (st : Storage) (buf : List Byte) (hit : Bool) (time : Nat)
  | bounds (st : Storage) (layer : LayerName) (addr bytes : Nat)
  deriving DecidableEq, Repr

/-- The storage after a request, whatever its outcome. -/
def Reply.storage : Reply → Storage
  | .ok st _ _ _ => st
  | .bounds st _ _ _ => st

/-- Put a level on top of the storage below it. -/
def push (lv : Level) (st : Storage) : Storage := { st with levels := lv :: st.levels }

/-- The same of an answer of the layer below. -/
def Reply.under (lv : Level) : Reply → Reply
  | .ok st buf hit t => .ok (push lv st) buf hit t
  | .bounds st l a n => .bounds (push lv st) l a n

/-! ### Memory, the terminal layer (R89) -/

/-- Every request in bounds is a hit; one past `PhysMemSize` raises. -/
def memHandle (cfg : Config) (r : Req) (st : Storage) : Reply :=
  if cfg.physMemSize < r.addr + r.bytes then .bounds st .memory r.addr r.bytes
  else if r.isRead then .ok st (st.pmem.readBytes r.addr r.bytes) true (cfg.memHitLat + cfg.memBusLat)
  else .ok { st with pmem := st.pmem.writeBytes r.addr r.buf } r.buf true (cfg.memHitLat + cfg.memBusLat)

/-! ### Lines of a level -/

/-- The ways of a set. -/
def Level.ways (lv : Level) (s : Nat) : List CacheLine := lv.sets.getD s []

/-- One way of a set. -/
def Level.line (lv : Level) (s w : Nat) : CacheLine := (lv.ways s).getD w (CacheLine.empty 0)

/-- Replace one way of a set. -/
def Level.setLine (lv : Level) (s w : Nat) (l : CacheLine) : Level :=
  { lv with sets := lv.sets.set s ((lv.ways s).set w l) }

/-- `buf <- line.data[off .. off+n-1]` (R73). -/
def slice (data : List Byte) (off n : Nat) : List Byte := (data.drop off).take n

/-- `line.data[off ..] <- buf` (R73). -/
def splice (data : List Byte) (off : Nat) (buf : List Byte) : List Byte :=
  data.take off ++ buf ++ data.drop (off + buf.length)

/-- The way that holds a tag: a valid line with it (R72). -/
def findHit (ways : List CacheLine) (tag : Nat) : Option Nat := ways.findIdx? fun l => l.valid && l.tag == tag

/-! ### Replacement (R76, R80, R81) -/

/-- The index and recency of the least recent way that satisfies `p`, from index `i` on, or `best`. -/
def oldestFrom (p : CacheLine → Bool) : List CacheLine → Nat → Option (Nat × Nat) → Option (Nat × Nat)
  | [], _, best => best
  | l :: ls, i, best =>
    let better := p l && (match best with | none => true | some (_, r) => decide (l.recency < r))
    oldestFrom p ls (i + 1) (if better then some (i, l.recency) else best)

/-- The way with the smallest recency among those that satisfy `p`. -/
def oldest (p : CacheLine → Bool) (ways : List CacheLine) : Nat := ((oldestFrom p ways 0 none).map Prod.fst).getD 0

/-- The victim: the invalid way of lowest index (R76), else what the policy chooses (R80, R81). -/
def victim (m : Method) (ways : List CacheLine) : Nat :=
  match ways.findIdx? (fun l => !l.valid) with
  | some w => w
  | none =>
    match m with
    | .lru => oldest (fun _ => true) ways
    | .twoQueue =>
      if ways.any (fun l => !l.promoted) then oldest (fun l => !l.promoted) ways else oldest (fun _ => true) ways

/-! ### Ticks and statistics (R79, R87) -/

/-- Every request first advances the tick (R79); a demand request counts as an access. DESIGN CHOICE (log entry 27): it counts on
arrival, before any request to a lower layer, so it has counted even where such a request raises. -/
def Level.arrive (lv : Level) (isPrefetch : Bool) : Level :=
  { lv with tick := lv.tick + 1, accesses := lv.accesses + (if isPrefetch then 0 else 1) }

/-- A demand request that took the hit path; counted before any request to a lower layer (DESIGN CHOICE, log entry 27). -/
def Level.countHit (lv : Level) (isPrefetch : Bool) : Level := { lv with hits := lv.hits + (if isPrefetch then 0 else 1) }

/-- A demand request that took a miss path; counted before any request to a lower layer (DESIGN CHOICE, log entry 27). -/
def Level.countMiss (lv : Level) (isPrefetch : Bool) : Level :=
  { lv with misses := lv.misses + (if isPrefetch then 0 else 1) }

/-- A writeback, whoever caused it (R87). -/
def Level.countWriteback (lv : Level) : Level := { lv with writebacks := lv.writebacks + 1 }

/-! ### One level -/

/-- What a line holds after a request that was changing it raised in a lower layer: free bytes (R314, log entry 4). -/
def freeData (n from_ : Nat) : List Byte := (List.range n).map fun k => Config.freeByte (from_ + k)

/-- The answer of a request that raised below while line `(s, w)` of this level was being changed. -/
def failedLine (c : LevelCfg) (lv : Level) (s w : Nat) (line : CacheLine) (st : Storage) (l : LayerName) (a n : Nat) : Reply :=
  .bounds (push (lv.setLine s w { line with data := freeData c.lineSize st.fresh }) { st with fresh := st.fresh + c.lineSize }) l a n

/-- The write of a request into a line that is present (R73, R75, R82): under write-through the write is also sent to the lower
layer, its time discarded, and the line stays clean; under write-back the line becomes dirty. `time` is the time reported. -/
def writeLine (c : LevelCfg) (lower : Req → Storage → Reply) (r : Req) (lv : Level) (below : Storage) (w : Nat)
    (line : CacheLine) (hit : Bool) (time : Nat) : Reply :=
  let line' := { line with data := splice line.data (c.off r.addr) r.buf }
  if c.wt then
    match lower { r with isRead := false } below with
    | .ok below' _ _ _ => .ok (push (lv.setLine (c.set r.addr) w line') below') r.buf hit time
    | .bounds below' l a n => failedLine c lv (c.set r.addr) w line' below' l a n
  else .ok (push (lv.setLine (c.set r.addr) w { line' with dirty := true }) below) r.buf hit time

/-- The hit path (R73): the line becomes the most recent, and under two-queue it is promoted. -/
def hitPath (c : LevelCfg) (lower : Req → Storage → Reply) (r : Req) (lv : Level) (below : Storage) (w : Nat) : Reply :=
  let line := lv.line (c.set r.addr) w
  let line' := { line with recency := lv.tick, promoted := line.promoted || c.method == .twoQueue }
  if r.isRead then
    .ok (push (lv.setLine (c.set r.addr) w line') below) (slice line.data (c.off r.addr) r.bytes) true (c.busLat + c.hitLat)
  else writeLine c lower r lv below w line' true (c.busLat + c.hitLat)

/-- A no-write-allocate write miss (R74): the lower layer's answer, counted as a miss here; no line of this level changes. -/
def forwardMiss (lower : Req → Storage → Reply) (r : Req) (lv : Level) (below : Storage) : Reply :=
  match lower r below with
  | .ok below' _ _ t => .ok (push lv below') r.buf false t
  | .bounds below' l a n => .bounds (push lv below') l a n

/-- The writeback of a dirty victim, before the line is reused (R75, R77). Any other victim asks nothing of the lower layer. -/
def writeback (c : LevelCfg) (lower : Req → Storage → Reply) (r : Req) (old : CacheLine) (below : Storage) : Reply :=
  if old.valid && old.dirty then
    lower { addr := c.lineAddr (c.set r.addr) old.tag, bytes := c.lineSize, isRead := false, buf := old.data, isPrefetch := r.isPrefetch } below
  else .ok below [] true 0

/-- Install the new line and fill it from the lower layer, then serve the request from it (R75, R78, R82). `twb` is the time of
the writeback. -/
def fillPath (c : LevelCfg) (lower : Req → Storage → Reply) (r : Req) (lv : Level) (below : Storage) (w twb : Nat) : Reply :=
  let line : CacheLine :=
    { valid := true, dirty := false, tag := c.tag r.addr, recency := lv.tick, promoted := false, data := (lv.line (c.set r.addr) w).data }
  match lower { addr := c.base r.addr, bytes := c.lineSize, isRead := true, buf := [], isPrefetch := r.isPrefetch } below with
  | .bounds below' l a n => failedLine c lv (c.set r.addr) w line below' l a n
  | .ok below' fill _ tf =>
    let line' := { line with data := fill }
    if r.isRead then
      .ok (push (lv.setLine (c.set r.addr) w line') below') (slice fill (c.off r.addr) r.bytes) false (c.busLat + twb + tf)
    else writeLine c lower r lv below' w line' false (c.busLat + twb + tf)

/-- The allocate path (R75): victim, writeback, install, fill. -/
def allocate (c : LevelCfg) (lower : Req → Storage → Reply) (r : Req) (lv : Level) (below : Storage) : Reply :=
  let w := victim c.method (lv.ways (c.set r.addr))
  let old := lv.line (c.set r.addr) w
  match writeback c lower r old below with
  | .bounds below' l a n => .bounds (push lv below') l a n
  | .ok below' _ _ twb => fillPath c lower r (if old.valid && old.dirty then lv.countWriteback else lv) below' w twb

/-- One request at one cache level, without the prefetches that may follow it (R71 to R75). `i` is the level's number and
`lower` the layer below. When a request is counted (R87) the spec does not say: here on arrival, so a demand request that a lower
layer makes raise has counted its access and its hit or miss at every level it reached (DESIGN CHOICE, log entry 27). -/
def serve (i : Nat) (c : LevelCfg) (lower : Req → Storage → Reply) (r : Req) (lv : Level) (below : Storage) : Reply :=
  if c.lineSize < c.off r.addr + r.bytes then .bounds (push lv below) (.cache i) r.addr r.bytes
  else
    let lv := lv.arrive r.isPrefetch
    match findHit (lv.ways (c.set r.addr)) (c.tag r.addr) with
    | some w => hitPath c lower r (lv.countHit r.isPrefetch) below w
    | none =>
      if !r.isRead && !c.wa then forwardMiss lower r (lv.countMiss r.isPrefetch) below
      else allocate c lower r (lv.countMiss r.isPrefetch) below

/-! ### Prefetch (R85, R86) -/

/-- The prefetches `k, k+1, …` of the line at `base`, `n` of them, each a request to the level itself, results and times
discarded. Under `PrefetchOOB = skip` one past physical memory ends the loop. The answer's storage or error is what counts. -/
def prefetchLoop (cfg : Config) (c : LevelCfg) (self : Req → Storage → Reply) (base : Nat) : Nat → Nat → Storage → Reply
  | 0, _, st => .ok st [] true 0
  | n + 1, k, st =>
    let a := base + k * c.lineSize
    if cfg.prefetchOob = .skip ∧ cfg.physMemSize < a + c.lineSize then .ok st [] true 0
    else
      match self { addr := a, bytes := c.lineSize, isRead := true, buf := [], isPrefetch := true } st with
      | .ok st' _ _ _ => prefetchLoop cfg c self base n (k + 1) st'
      | .bounds st' l x y => .bounds st' l x y

/-- A demand request is followed by the `Prefetch[i] - 1` next lines (R85). -/
def withPrefetch (cfg : Config) (c : LevelCfg) (self : Req → Storage → Reply) (r : Req) : Reply → Reply
  | .bounds st l a n => .bounds st l a n
  | .ok st buf hit t =>
    if r.isPrefetch then .ok st buf hit t
    else
      match prefetchLoop cfg c self (c.base r.addr) (c.prefetch - 1) 1 st with
      | .ok st' _ _ _ => .ok st' buf hit t
      | .bounds st' l a n => .bounds st' l a n

/-! ### The chain (R67) -/

/-- `Handle` at the level numbered `i`, whose settings head the list; at the end of the list, Memory. A storage that lists fewer
levels than the configuration does not occur; there the request goes to Memory. -/
def handle (cfg : Config) : Nat → List LevelCfg → Req → Storage → Reply
  | _, [], r, st => memHandle cfg r st
  | i, c :: cs, r, st =>
    let lower := fun (r' : Req) (st' : Storage) => handle cfg (i + 1) cs r' st'
    let self := fun (r' : Req) (st' : Storage) =>
      match st'.levels with
      | [] => memHandle cfg r' st'
      | lv :: rest => serve i c lower r' lv { st' with levels := rest }
    withPrefetch cfg c self r (self r st)

/-- `Handle_Top` (R67, R69). -/
def handleTop (cfg : Config) (r : Req) (st : Storage) : Reply := handle cfg 1 cfg.levels r st

/-! ### The architectural memory view (R97) -/

/-- The byte of the topmost valid line that contains `p`, else `PMem[p]`. -/
def viewAt : List LevelCfg → List Level → Memory → Nat → Byte
  | c :: cs, lv :: lvs, m, p =>
    match findHit (lv.ways (c.set p)) (c.tag p) with
    | some w => (lv.line (c.set p) w).data.getD (c.off p) Memory.blank
    | none => viewAt cs lvs m p
  | _, _, m, p => m.read p

/-- `View(p)` (R97). -/
def Storage.view (cfg : Config) (st : Storage) (p : Nat) : Byte := viewAt cfg.levels st.levels st.pmem p

/-- `View(p)` of the machine. -/
def State.view (s : State) (p : Nat) : Byte := s.storage.view s.cfg p

end Sys2Proof.Machine
end

