-- ==== Sys2Proof/Machine/Access.lean ====
section
/-! DEFINITION. Address translation (20_memory.md R60 to R64, R66) and the access primitives of the pipeline: instruction fetch,
loads, stores and the string bytes of system call 2 (R93 to R95; 43_system.md R266). -/

namespace Sys2Proof.Machine

/-- The entry of a virtual page (R41). -/
def lookupPage : List (Nat × PageEntry) → Nat → Option PageEntry
  | [], _ => none
  | (v, e) :: pt, vpn => if v = vpn then some e else lookupPage pt vpn

/-- The alignment check: 2- and 4-byte accesses must be aligned, an 8-byte one when `Misaligned8 = fault`, a byte never (R62, R63). -/
def misaligned (cfg : Config) (vaddr : Word) (size : Nat) : Bool :=
  if size = 2 then vaddr.toNat % 2 != 0
  else if size = 4 then vaddr.toNat % 4 != 0
  else if size = 8 then cfg.misaligned8 == .fault && vaddr.toNat % 8 != 0
  else false

/-- A physical address, or the reason there is none. -/
inductive Translation where
  | ok (paddr : Nat)
  | fail (kind : TranslationKind)
  deriving DecidableEq, Repr

/-- `paddr = PT[vpn].ppn * PageSize + off`, a `u64` (R64, R8). -/
def physAddr (cfg : Config) (e : PageEntry) (vaddr : Word) : Nat :=
  (e.ppn.toNat * cfg.pageSize + vaddr.toNat % cfg.pageSize) % 2 ^ 64

/-- `Translate(vaddr, size)`: alignment first, then the page of the first byte (R62 to R64). It writes no state. -/
def translate (s : State) (vaddr : Word) (size : Nat) : Translation :=
  if misaligned s.cfg vaddr size then .fail .misaligned
  else
    match lookupPage s.pt (vaddr.toNat / s.cfg.pageSize) with
    | some e => if e.valid then .ok (physAddr s.cfg e vaddr) else .fail .unmapped
    | none => .fail .unmapped

/-- What an access of a stage gives: the machine with the value and the storage time, or the machine in its fatal status. -/
inductive AccessResult where
  | ok (s : State) (value : Word) (time : Nat)
  | raised (s : State)
  deriving DecidableEq, Repr

/-- One access of a stage (R93 to R95): a translation error or a bounds error is fatal to the stage (R66, R304, R305, R307). -/
def access (stage : Stage) (s : State) (vaddr : Word) (n : Nat) (isRead : Bool) (v : Word) : AccessResult :=
  match translate s vaddr n with
  | .fail kind => .raised (raise (.translationError stage kind vaddr n) s)
  | .ok pa =>
    match handleTop s.cfg { addr := pa, bytes := n, isRead := isRead, buf := if isRead then [] else bytesOf n v, isPrefetch := false } s.storage with
    | .ok st buf _ t => .ok { s with storage := st } (valueOf buf) t
    | .bounds st layer a k => .raised (raise (.boundsError layer a k) { s with storage := st })

/-- `MemRead(vaddr, n)` (R93). -/
def memRead (s : State) (vaddr : Word) (n : Nat) : AccessResult := access .memory s vaddr n true 0

/-- `MemWrite(vaddr, n, v)` (R94). The value it answers is not used. -/
def memWrite (s : State) (vaddr : Word) (n : Nat) (v : Word) : AccessResult := access .memory s vaddr n false v

/-- `Fetch32(pc)` (R95). -/
def fetch32 (s : State) (pc : Word) : AccessResult := access .fetch s pc 4 true 0

/-- The architectural byte at a virtual address, or none where it is not mapped. -/
def readByte (s : State) (vaddr : Word) : Option Byte :=
  match translate s vaddr 1 with
  | .ok pa => some (s.view pa)
  | .fail _ => none

end Sys2Proof.Machine
end

