-- ==== Sys2Proof/Machine/Syscall.lean ====
section
/-! DEFINITION. The system-call functions WriteBack performs for ECALL (43_system.md R261 to R270). -/

namespace Sys2Proof.Machine

/-- What the string read of R265 finds. -/
inductive StrScan where
  /-- a NUL within the cap, or the cap reached without one -/
  | str (bytes : List Byte) (truncated : Bool)
  /-- a byte at an unmapped address (R266) -/
  | unmapped (vaddr : Word)
  deriving DecidableEq, Repr

/-- Read at most `n` more bytes from `vaddr`, after the bytes already read (R265). Each byte is the architectural byte, with no
storage request (R266). -/
def scanStr (s : State) : Nat → Word → List Byte → StrScan
  | 0, _, acc => .str acc true
  | n + 1, vaddr, acc =>
    match readByte s vaddr with
    | none => .unmapped vaddr
    | some c => if c = 0 then .str acc false else scanStr s n (vaddr + 1) (acc ++ [c])

/-- `a7 = 0` (R263). -/
def sysPrintInt (a0 : Word) (s : State) : State := emit (.printInt a0) s

/-- `a7 = 1`: the low byte (R264). -/
def sysPrintChar (a0 : Word) (s : State) : State := emit (.printChar (a0.setWidth 8)) s

/-- `a7 = 2`: nothing is printed when a byte is unmapped (R265, R306). -/
def sysPrintStr (a0 : Word) (s : State) : State :=
  match scanStr s s.cfg.maxStrLen a0 [] with
  | .str bytes truncated => emit (.printStr bytes truncated) s
  | .unmapped v => raise (.translationError .writeBack .unmapped v 1) s

/-- `a7 = 3` and `a7 = 4`: the next input value into `a0` (R267, R268). -/
def sysRead (s : State) : State :=
  let (v, s') := nextInput s
  writeReg regA0 v s'

/-- `a7 = 93` (R269). -/
def sysExit (a0 : Word) (s : State) : State := { emit (.exit a0) s with status := .exited }

/-- `Syscall(a0, a7)` of the ECALL at `pc`, on the whole value of `a7` (R261, R270). -/
def syscall (pc a0 a7 : Word) (s : State) : State :=
  if a7 = 0 then sysPrintInt a0 s
  else if a7 = 1 then sysPrintChar a0 s
  else if a7 = 2 then sysPrintStr a0 s
  else if a7 = 3 then sysRead s
  else if a7 = 4 then sysRead s
  else if a7 = 93 then sysExit a0 s
  else raise (.unknownSyscall pc a7) s

end Sys2Proof.Machine
end

