-- ==== Sys2Proof/Machine/Life.lean ====
section
/-! DEFINITION. The life of an instruction: the part each stage plays in it (70_reset_and_hazards.md R420 to R428; the common rules
R150, R200, R230 and R260), said once for all instructions over what an instruction's own rule adds, its `Meaning`.

`exec i s` is `live i m s` for the meaning `m` of `i`. During a cycle it performs the part of `i` that belongs to the stage
`s.sig.phase`, on the pipeline registers; `Machine/Pipeline.lean` calls it so, for each instruction in flight. Between cycles it
performs the whole life of `i` at the address `F.cur.pc` with nothing else in flight: what the sequential machine of R470 does
for one instruction (log entry 6). Both are made of the same operations below. -/

namespace Sys2Proof.Machine

/-! ### What an instruction's rule says -/

/-- The outcome of Execute's computation. -/
inductive Calc where
  /-- `val_e` and `val_c` (R34) -/
  | value (valE valC : Word)
  /-- a conditional branch: its outcome and the address that follows (R200) -/
  | branch (taken : Bool) (actual : Word)
  /-- JALR: the target and the link value (R208) -/
  | jump (target link : Word)
  /-- an error of Execute (R310, R311) -/
  | error (k : FatalKind)
  deriving DecidableEq, Repr

/-- What MemoryAccess does (R426). -/
inductive MemAct where
  | none
  | load (n : Nat) (signed : Bool)
  | store (n : Nat)
  deriving DecidableEq, Repr

/-- What Decode does beside reading the sources. -/
inductive Issue where
  | plain
  /-- JALR keeps fetch blocked (R422) -/
  | block
  /-- ECALL squashes the word fetched in this cycle and blocks fetch (R421) -/
  | drain
  deriving DecidableEq, Repr

/-- What WriteBack does (R427). -/
inductive Retire where
  | commit
  | branch
  | syscall
  deriving DecidableEq, Repr

/-- An instruction's own rule: the computation from the configuration, its address and the forwarded operands `a` and `b`, and
what it asks of the other stages. -/
structure Meaning where
  compute : Config → Word → Word → Word → Calc
  mem : MemAct := .none
  issue : Issue := .plain
  retire : Retire := .commit

/-! ### Fetch's choice of the next address (R412, R413) -/

/-- The prediction recorded, the next fetch address and the fetch block. -/
structure NextFetch where
  predTaken : Bool
  next : Word
  block : Bool
  deriving DecidableEq, Repr

/-- R412 for the word at `pc`, from its pre-decoded kind. -/
def nextFetch (s : State) (pc : Word) : FetchKind → NextFetch
  | .branch off =>
    let pt := predict s pc
    { predTaken := pt, next := if pt then pc + immSB off else pc + 4, block := false }
  | .jal off => { predTaken := false, next := pc + immUJ off, block := false }
  | .jalr => { predTaken := false, next := pc + 4, block := true }
  | .other => { predTaken := false, next := pc + 4, block := false }

/-! ### The operations of the stages, on values -/

/-- What Execute leaves: `val_e`, `val_c`, `predOK` and the redirect it asks for; or the machine in its fatal status. -/
inductive Executed where
  | done (s : State) (valE valC : Word) (predOK : Bool) (redirect : Option Word)
  | raised (s : State)
  deriving DecidableEq, Repr

/-- Execute (R423, R424): a conditional branch updates the predictor (R465), and a misprediction or a JALR redirects and counts
a control hazard. -/
def executeOp (m : Meaning) (pc a b : Word) (predTaken : Bool) (s : State) : Executed :=
  match m.compute s.cfg pc a b with
  | .value valE valC => .done s valE valC true none
  | .branch taken actual =>
    if taken = predTaken then .done (updatePredictor pc taken s) 0 0 true none
    else .done (countHazard (updatePredictor pc taken s)) 0 0 false (some actual)
  | .jump target link => .done (countHazard s) link 0 true (some target)
  | .error k => .raised (raise k s)

/-- What MemoryAccess leaves: the value WriteBack commits and the stage's cost; or the machine in its fatal status. -/
inductive Accessed where
  | done (s : State) (res : Word) (time : Nat)
  | raised (s : State)
  deriving DecidableEq, Repr

/-- MemoryAccess (R426, R230). -/
def memoryOp (m : Meaning) (valE valC : Word) (s : State) : Accessed :=
  match m.mem with
  | .none => .done s valE 1
  | .load n signed =>
    match memRead s valE n with
    | .ok s' v t => .done s' (extend n signed v) t
    | .raised s' => .raised s'
  | .store n =>
    match memWrite s valE n valC with
    | .ok s' _ t => .done s' valE t
    | .raised s' => .raised s'

/-- WriteBack (R427): the register write or the system call, then the counters. A call that raises stops there (R270, R302). -/
def retireOp (i : Instr) (m : Meaning) (pc valE valC : Word) (predOK : Bool) (s : State) : State :=
  match m.retire with
  | .commit => countInst (writeDst i.dst valE s)
  | .branch => countBranch predOK (countInst s)
  | .syscall =>
    let s' := syscall pc valE valC s
    if s'.status.isFatal then s' else countInst s'

/-! ### The parts of a cycle -/

/-- `Redirect(t)` (R425). -/
def redirect (t : Word) (s : State) : State :=
  { s with fNxt := { pc := t, bubble := false, stall := false }, dNxt := Snap.bubble, eNxt := Snap.bubble }

/-- Decode's part: the operands into `E.nxt`, then R421 or R422. -/
def decodePart (i : Instr) (m : Meaning) (s : State) : State :=
  match s.eNxt.slot with
  | none => s
  | some e =>
    let s' := { s with eNxt := Snap.of { e with op1 := readSrc s i.srcs.1, op2 := readSrc s i.srcs.2 } }
    match m.issue with
    | .plain => s'
    | .block => { s' with fNxt := { s'.fNxt with bubble := true } }
    | .drain => { s' with dNxt := Snap.bubble, fNxt := { pc := e.pc + 4, bubble := true, stall := false } }

/-- Execute's part (R423). -/
def executePart (i : Instr) (m : Meaning) (s : State) : State :=
  match s.eCur.slot with
  | none => s
  | some e =>
    match executeOp m e.pc e.op1 e.op2 e.predTaken (report (costOf s.cfg.cost i.opClass) s) with
    | .raised s' => s'
    | .done s' valE valC predOK target =>
      let s'' := match target with
        | some t => redirect t s'
        | none => s'
      { s'' with mNxt := Snap.of { pc := e.pc, inst := e.inst, valE := valE, valC := valC, predOK := predOK } }

/-- MemoryAccess's part (R426). -/
def memoryPart (m : Meaning) (s : State) : State :=
  match s.mCur.slot with
  | none => s
  | some x =>
    match memoryOp m x.valE x.valC s with
    | .raised s' => s'
    | .done s' res t => report t { s' with wNxt := Snap.of { x with valE := res } }

/-- WriteBack's part (R427), and the release of fetch by an ECALL that neither exited nor raised (R428). -/
def writeBackPart (i : Instr) (m : Meaning) (s : State) : State :=
  match s.wCur.slot with
  | none => s
  | some x =>
    let s' := retireOp i m x.pc x.valE x.valC x.predOK s
    if m.retire = .syscall ∧ s'.status = .running then
      { s' with fNxt := { pc := x.pc + 4, bubble := false, stall := false } }
    else s'

/-! ### The whole life, with nothing else in flight -/

/-- Fetch's choice, then Decode, Execute, MemoryAccess and WriteBack of `i` at `F.cur.pc`, one after the other (R150, R200, R230,
R260). An error leaves the machine as it was raised. -/
def alone (i : Instr) (m : Meaning) (s : State) : State :=
  let pc := s.fCur.pc
  let nf := nextFetch s pc i.fetchKind
  match executeOp m pc (readSrc s i.srcs.1) (readSrc s i.srcs.2) nf.predTaken s with
  | .raised s1 => s1
  | .done s1 valE valC predOK target =>
    match memoryOp m valE valC s1 with
    | .raised s2 => s2
    | .done s2 res _ =>
      let s3 := retireOp i m pc res valC predOK s2
      if s3.status.isFatal then s3 else { s3 with fCur := { s3.fCur with pc := target.getD nf.next } }

/-- What `exec` does for an instruction with meaning `m`. -/
def live (i : Instr) (m : Meaning) (s : State) : Host.Outcome State Fault Refusal :=
  match s.sig.phase with
  | .between => .next (alone i m s)
  | .decode => .next (decodePart i m s)
  | .execute => .next (executePart i m s)
  | .memory => .next (memoryPart m s)
  | .writeBack => .next (writeBackPart i m s)

end Sys2Proof.Machine
end

