-- ==== Sys2Proof/Machine/Control.lean ====
section
/-! DEFINITION. The control-transfer instructions (41_control.md R200 to R208). -/

namespace Sys2Proof.Machine

/-- A conditional branch on `cond_B(a, b)` (R200): `actual <- taken ? pc + imm : pc + 4`. -/
def branchOn (cond : Word → Word → Bool) (off : BitVec 13) : Meaning where
  compute := fun _ pc a b => .branch (cond a b) (if cond a b then pc + immSB off else pc + 4)
  retire := .branch

/-- JAL in Execute: the link value; Fetch has gone to the target (R207). -/
def linking : Meaning where
  compute := fun _ pc _ _ => .value (pc + 4) 0

/-- JALR in Execute: the target `a + imm`, whose bit 0 must be 0 or is cleared, and the link value (R208). -/
def jumpingTo (imm : BitVec 12) : Meaning where
  compute := fun cfg pc a _ =>
    let t := a + immI imm
    if t.getLsbD 0 then
      match cfg.jalrOdd with
      | .fault => .error (.jalrOddTarget pc t)
      | .clear => .jump (t &&& ~~~1) (pc + 4)
    else .jump t (pc + 4)
  issue := .block

/-- BEQ (R201). -/
def execBeq (rs1 rs2 : Reg) (off : BitVec 13) (s : State) : Host.Outcome State Fault Refusal :=
  live (.beq rs1 rs2 off) (branchOn condEq off) s

/-- BNE (R202). -/
def execBne (rs1 rs2 : Reg) (off : BitVec 13) (s : State) : Host.Outcome State Fault Refusal :=
  live (.bne rs1 rs2 off) (branchOn condNe off) s

/-- BLT (R203). -/
def execBlt (rs1 rs2 : Reg) (off : BitVec 13) (s : State) : Host.Outcome State Fault Refusal :=
  live (.blt rs1 rs2 off) (branchOn condLt off) s

/-- BGE (R204). -/
def execBge (rs1 rs2 : Reg) (off : BitVec 13) (s : State) : Host.Outcome State Fault Refusal :=
  live (.bge rs1 rs2 off) (branchOn condGe off) s

/-- BLTU (R205). -/
def execBltu (rs1 rs2 : Reg) (off : BitVec 13) (s : State) : Host.Outcome State Fault Refusal :=
  live (.bltu rs1 rs2 off) (branchOn condLtu off) s

/-- BGEU (R206). -/
def execBgeu (rs1 rs2 : Reg) (off : BitVec 13) (s : State) : Host.Outcome State Fault Refusal :=
  live (.bgeu rs1 rs2 off) (branchOn condGeu off) s

/-- JAL (R207). -/
def execJal (rd : Reg) (off : BitVec 21) (s : State) : Host.Outcome State Fault Refusal :=
  live (.jal rd off) linking s

/-- JALR (R208). -/
def execJalr (rd rs1 : Reg) (imm : BitVec 12) (s : State) : Host.Outcome State Fault Refusal :=
  live (.jalr rd rs1 imm) (jumpingTo imm) s

end Sys2Proof.Machine
end

