-- ==== Sys2Proof/Machine/Integer.lean ====
section
/-! DEFINITION. The integer computational instructions (40_integer.md R152 to R181): each is `live` with the result its rule
computes from the forwarded operands `a` and `b` (R150). None accesses memory, none has an error, and overflow wraps (R151, R186). -/

namespace Sys2Proof.Machine

/-- A result computed from `a` alone. `val_c` is 0 (R150). -/
def ofReg (f : Word → Word) : Meaning where
  compute := fun _ _ a _ => .value (f a) 0

/-- A result computed from `a` and `b`. -/
def ofRegs (f : Word → Word → Word) : Meaning where
  compute := fun _ _ a b => .value (f a b) 0

/-- A result computed from the instruction's own address. -/
def ofPc (f : Word → Word) : Meaning where
  compute := fun _ pc _ _ => .value (f pc) 0

/-! ### Upper immediates -/

/-- LUI: `result <- imm` (R152). -/
def execLui (rd : Reg) (imm : BitVec 20) (s : State) : Host.Outcome State Fault Refusal :=
  live (.lui rd imm) (ofPc fun _ => immU imm) s

/-- AUIPC: `result <- pc + imm` (R153). -/
def execAuipc (rd : Reg) (imm : BitVec 20) (s : State) : Host.Outcome State Fault Refusal :=
  live (.auipc rd imm) (ofPc fun pc => pc + immU imm) s

/-! ### OP-IMM -/

/-- ADDI: `result <- a + imm` (R154). -/
def execAddi (rd rs1 : Reg) (imm : BitVec 12) (s : State) : Host.Outcome State Fault Refusal :=
  live (.addi rd rs1 imm) (ofReg fun a => a + immI imm) s

/-- SLTI: `s64(a) < s64(imm)` (R155). -/
def execSlti (rd rs1 : Reg) (imm : BitVec 12) (s : State) : Host.Outcome State Fault Refusal :=
  live (.slti rd rs1 imm) (ofReg fun a => flagWord (condLt a (immI imm))) s

/-- SLTIU: `a <u imm`, the immediate sign-extended first (R156). -/
def execSltiu (rd rs1 : Reg) (imm : BitVec 12) (s : State) : Host.Outcome State Fault Refusal :=
  live (.sltiu rd rs1 imm) (ofReg fun a => flagWord (condLtu a (immI imm))) s

/-- XORI (R157). -/
def execXori (rd rs1 : Reg) (imm : BitVec 12) (s : State) : Host.Outcome State Fault Refusal :=
  live (.xori rd rs1 imm) (ofReg fun a => a ^^^ immI imm) s

/-- ORI (R158). -/
def execOri (rd rs1 : Reg) (imm : BitVec 12) (s : State) : Host.Outcome State Fault Refusal :=
  live (.ori rd rs1 imm) (ofReg fun a => a ||| immI imm) s

/-- ANDI (R159). -/
def execAndi (rd rs1 : Reg) (imm : BitVec 12) (s : State) : Host.Outcome State Fault Refusal :=
  live (.andi rd rs1 imm) (ofReg fun a => a &&& immI imm) s

/-- SLLI: `(a << shamt) mod 2^64` (R160). -/
def execSlli (rd rs1 : Reg) (shamt : BitVec 6) (s : State) : Host.Outcome State Fault Refusal :=
  live (.slli rd rs1 shamt) (ofReg fun a => a <<< shamt.toNat) s

/-- SRLI: `a >>u shamt` (R161). -/
def execSrli (rd rs1 : Reg) (shamt : BitVec 6) (s : State) : Host.Outcome State Fault Refusal :=
  live (.srli rd rs1 shamt) (ofReg fun a => a >>> shamt.toNat) s

/-- SRAI: `a >>s shamt` (R162). -/
def execSrai (rd rs1 : Reg) (shamt : BitVec 6) (s : State) : Host.Outcome State Fault Refusal :=
  live (.srai rd rs1 shamt) (ofReg fun a => a.sshiftRight shamt.toNat) s

/-! ### OP -/

/-- ADD (R163). -/
def execAdd (rd rs1 rs2 : Reg) (s : State) : Host.Outcome State Fault Refusal :=
  live (.add rd rs1 rs2) (ofRegs fun a b => a + b) s

/-- SUB (R164). -/
def execSub (rd rs1 rs2 : Reg) (s : State) : Host.Outcome State Fault Refusal :=
  live (.sub rd rs1 rs2) (ofRegs fun a b => a - b) s

/-- SLL: `a << b[5:0]` (R165). -/
def execSll (rd rs1 rs2 : Reg) (s : State) : Host.Outcome State Fault Refusal :=
  live (.sll rd rs1 rs2) (ofRegs fun a b => a <<< amount6 b) s

/-- SLT: `s64(a) < s64(b)` (R166). -/
def execSlt (rd rs1 rs2 : Reg) (s : State) : Host.Outcome State Fault Refusal :=
  live (.slt rd rs1 rs2) (ofRegs fun a b => flagWord (condLt a b)) s

/-- SLTU: `a <u b` (R167). -/
def execSltu (rd rs1 rs2 : Reg) (s : State) : Host.Outcome State Fault Refusal :=
  live (.sltu rd rs1 rs2) (ofRegs fun a b => flagWord (condLtu a b)) s

/-- XOR (R168). -/
def execXor (rd rs1 rs2 : Reg) (s : State) : Host.Outcome State Fault Refusal :=
  live (.xor rd rs1 rs2) (ofRegs fun a b => a ^^^ b) s

/-- SRL: `a >>u b[5:0]` (R169). -/
def execSrl (rd rs1 rs2 : Reg) (s : State) : Host.Outcome State Fault Refusal :=
  live (.srl rd rs1 rs2) (ofRegs fun a b => a >>> amount6 b) s

/-- SRA: `a >>s b[5:0]` (R170). -/
def execSra (rd rs1 rs2 : Reg) (s : State) : Host.Outcome State Fault Refusal :=
  live (.sra rd rs1 rs2) (ofRegs fun a b => a.sshiftRight (amount6 b)) s

/-- OR (R171). -/
def execOr (rd rs1 rs2 : Reg) (s : State) : Host.Outcome State Fault Refusal :=
  live (.or rd rs1 rs2) (ofRegs fun a b => a ||| b) s

/-- AND (R172). -/
def execAnd (rd rs1 rs2 : Reg) (s : State) : Host.Outcome State Fault Refusal :=
  live (.and rd rs1 rs2) (ofRegs fun a b => a &&& b) s

/-! ### OP-IMM-32 and OP-32 -/

/-- ADDIW: `W32(a + imm)` (R173). -/
def execAddiw (rd rs1 : Reg) (imm : BitVec 12) (s : State) : Host.Outcome State Fault Refusal :=
  live (.addiw rd rs1 imm) (ofReg fun a => w32 (a + immI imm)) s

/-- SLLIW: `W32(a[31:0] << shamt)` (R174). -/
def execSlliw (rd rs1 : Reg) (shamt : BitVec 5) (s : State) : Host.Outcome State Fault Refusal :=
  live (.slliw rd rs1 shamt) (ofReg fun a => sext32 (low32 a <<< shamt.toNat)) s

/-- SRLIW: `W32(a[31:0] >>u shamt)` (R175). -/
def execSrliw (rd rs1 : Reg) (shamt : BitVec 5) (s : State) : Host.Outcome State Fault Refusal :=
  live (.srliw rd rs1 shamt) (ofReg fun a => sext32 (low32 a >>> shamt.toNat)) s

/-- SRAIW: `W32(sext_32(a[31:0]) >>s shamt)` (R176). -/
def execSraiw (rd rs1 : Reg) (shamt : BitVec 5) (s : State) : Host.Outcome State Fault Refusal :=
  live (.sraiw rd rs1 shamt) (ofReg fun a => w32 ((sext32 (low32 a)).sshiftRight shamt.toNat)) s

/-- ADDW: `W32(a + b)` (R177). -/
def execAddw (rd rs1 rs2 : Reg) (s : State) : Host.Outcome State Fault Refusal :=
  live (.addw rd rs1 rs2) (ofRegs fun a b => w32 (a + b)) s

/-- SUBW: `W32(a - b)` (R178). -/
def execSubw (rd rs1 rs2 : Reg) (s : State) : Host.Outcome State Fault Refusal :=
  live (.subw rd rs1 rs2) (ofRegs fun a b => w32 (a - b)) s

/-- SLLW: `W32(a[31:0] << b[4:0])` (R179). -/
def execSllw (rd rs1 rs2 : Reg) (s : State) : Host.Outcome State Fault Refusal :=
  live (.sllw rd rs1 rs2) (ofRegs fun a b => sext32 (low32 a <<< amount5 b)) s

/-- SRLW: `W32(a[31:0] >>u b[4:0])` (R180). -/
def execSrlw (rd rs1 rs2 : Reg) (s : State) : Host.Outcome State Fault Refusal :=
  live (.srlw rd rs1 rs2) (ofRegs fun a b => sext32 (low32 a >>> amount5 b)) s

/-- SRAW: `W32(sext_32(a[31:0]) >>s b[4:0])` (R181). -/
def execSraw (rd rs1 rs2 : Reg) (s : State) : Host.Outcome State Fault Refusal :=
  live (.sraw rd rs1 rs2) (ofRegs fun a b => w32 ((sext32 (low32 a)).sshiftRight (amount5 b))) s

end Sys2Proof.Machine
end

