-- ==== Sys2Proof/Machine/LoadStore.lean ====
section
/-! DEFINITION. The loads and stores (42_load_store.md R230 to R241). -/

namespace Sys2Proof.Machine

/-- A load of `n` bytes at `a + imm`, sign- or zero-extended (R230). -/
def loading (n : Nat) (signed : Bool) (imm : BitVec 12) : Meaning where
  compute := fun _ _ a _ => .value (a + immI imm) 0
  mem := .load n signed

/-- A store of the low `n` bytes of `b` at `a + imm` (R230). -/
def storing (n : Nat) (imm : BitVec 12) : Meaning where
  compute := fun _ _ a b => .value (a + immS imm) b
  mem := .store n

/-- LB (R231). -/
def execLb (rd rs1 : Reg) (imm : BitVec 12) (s : State) : Host.Outcome State Fault Refusal :=
  live (.lb rd rs1 imm) (loading 1 true imm) s

/-- LH (R232). -/
def execLh (rd rs1 : Reg) (imm : BitVec 12) (s : State) : Host.Outcome State Fault Refusal :=
  live (.lh rd rs1 imm) (loading 2 true imm) s

/-- LW (R233). -/
def execLw (rd rs1 : Reg) (imm : BitVec 12) (s : State) : Host.Outcome State Fault Refusal :=
  live (.lw rd rs1 imm) (loading 4 true imm) s

/-- LD (R234). -/
def execLd (rd rs1 : Reg) (imm : BitVec 12) (s : State) : Host.Outcome State Fault Refusal :=
  live (.ld rd rs1 imm) (loading 8 true imm) s

/-- LBU (R235). -/
def execLbu (rd rs1 : Reg) (imm : BitVec 12) (s : State) : Host.Outcome State Fault Refusal :=
  live (.lbu rd rs1 imm) (loading 1 false imm) s

/-- LHU (R236). -/
def execLhu (rd rs1 : Reg) (imm : BitVec 12) (s : State) : Host.Outcome State Fault Refusal :=
  live (.lhu rd rs1 imm) (loading 2 false imm) s

/-- LWU (R237). -/
def execLwu (rd rs1 : Reg) (imm : BitVec 12) (s : State) : Host.Outcome State Fault Refusal :=
  live (.lwu rd rs1 imm) (loading 4 false imm) s

/-- SB (R238). -/
def execSb (rs1 rs2 : Reg) (imm : BitVec 12) (s : State) : Host.Outcome State Fault Refusal :=
  live (.sb rs1 rs2 imm) (storing 1 imm) s

/-- SH (R239). -/
def execSh (rs1 rs2 : Reg) (imm : BitVec 12) (s : State) : Host.Outcome State Fault Refusal :=
  live (.sh rs1 rs2 imm) (storing 2 imm) s

/-- SW (R240). -/
def execSw (rs1 rs2 : Reg) (imm : BitVec 12) (s : State) : Host.Outcome State Fault Refusal :=
  live (.sw rs1 rs2 imm) (storing 4 imm) s

/-- SD (R241). -/
def execSd (rs1 rs2 : Reg) (imm : BitVec 12) (s : State) : Host.Outcome State Fault Refusal :=
  live (.sd rs1 rs2 imm) (storing 8 imm) s

end Sys2Proof.Machine
end

