-- ==== Sys2Proof/Machine/MulDiv.lean ====
section
/-! DEFINITION. Multiply and divide (40_integer.md R182 to R185, R187). -/

namespace Sys2Proof.Machine

/-- The high half of the exact signed product: `p[127:64]` (R183). -/
def mulHigh (a b : Word) : Word := (BitVec.ofInt 128 (a.toInt * b.toInt)).extractLsb' 64 64

/-- `s64(a) quot s64(b)`, rounded toward zero (R184). -/
def divSigned (a b : Word) : Word := BitVec.ofInt 64 (a.toInt.tdiv b.toInt)

/-- `s64(a) - (s64(a) quot s64(b)) * s64(b)` (R185). -/
def remSigned (a b : Word) : Word := BitVec.ofInt 64 (a.toInt - a.toInt.tdiv b.toInt * b.toInt)

/-- Division by zero or signed overflow (R187). -/
def isDivCorner (a b : Word) : Bool := b == 0 || (a == 0x8000000000000000 && b == 0xFFFFFFFFFFFFFFFF)

/-- DIV's results under `DivCorner = riscv` (R187). -/
def divCornerResult (a b : Word) : Word := if b = 0 then 0xFFFFFFFFFFFFFFFF else a

/-- REM's results under `DivCorner = riscv` (R187). -/
def remCornerResult (a b : Word) : Word := if b = 0 then a else 0

/-- DIV or REM: the quotient or remainder, and on a corner what `DivCorner` says (R187). -/
def dividing (f corner : Word → Word → Word) : Meaning where
  compute := fun cfg pc a b =>
    if isDivCorner a b then
      match cfg.divCorner with
      | .fault => .error (.divFault pc a b)
      | .riscv => .value (corner a b) 0
    else .value (f a b) 0

/-- MUL: `(a * b) mod 2^64` (R182). -/
def execMul (rd rs1 rs2 : Reg) (s : State) : Host.Outcome State Fault Refusal :=
  live (.mul rd rs1 rs2) (ofRegs fun a b => a * b) s

/-- MULH (R183). -/
def execMulh (rd rs1 rs2 : Reg) (s : State) : Host.Outcome State Fault Refusal :=
  live (.mulh rd rs1 rs2) (ofRegs fun a b => mulHigh a b) s

/-- DIV (R184, R187). -/
def execDiv (rd rs1 rs2 : Reg) (s : State) : Host.Outcome State Fault Refusal :=
  live (.div rd rs1 rs2) (dividing divSigned divCornerResult) s

/-- REM (R185, R187). -/
def execRem (rd rs1 rs2 : Reg) (s : State) : Host.Outcome State Fault Refusal :=
  live (.rem rd rs1 rs2) (dividing remSigned remCornerResult) s

end Sys2Proof.Machine
end

