-- ==== Sys2Proof/Machine/System.lean ====
section
/-! DEFINITION. The system instruction ECALL (43_system.md R260). -/

namespace Sys2Proof.Machine

/-- ECALL carries `a0` and `a7` to WriteBack, which performs the call (R260, R33). -/
def calling : Meaning where
  compute := fun _ _ a b => .value a b
  issue := .drain
  retire := .syscall

/-- ECALL (R260). -/
def execEcall (s : State) : Host.Outcome State Fault Refusal :=
  live .ecall calling s

end Sys2Proof.Machine
end

