-- ==== Sys2Proof/Machine/Pipeline.lean ====
section
/-! DEFINITION. One cycle of the pipeline: Fetch, Decode, Execute, MemoryAccess, WriteBack and UpdatePipeline, in that order
(70_reset_and_hazards.md R410 to R450). Decode, Execute, MemoryAccess and WriteBack each run `exec` of the instruction in their
register, at their phase; forwarding, the load-use hold and the update are the pipeline's own. -/

namespace Sys2Proof.Machine

/-- A cycle that goes on from one stage to the next, or ends because a fatal error was raised (R302). -/
def thenStage (o : Host.Outcome State Fault Refusal) (k : State → Host.Outcome State Fault Refusal) :
    Host.Outcome State Fault Refusal :=
  match o with
  | .next s => if s.status.isFatal then .next { s with sig := Signals.idle } else k s
  | .fault f => .fault f
  | .refused r => .refused r

/-- Enter a stage: `exec` performs that stage's part. -/
def atPhase (p : Phase) (s : State) : State := { s with sig := { s.sig with phase := p } }

/-! ### Fetch (R411, R412) -/

/-- The value of a 4-byte fetch as an instruction word (R95). -/
def fetchedWord (v : Word) : InstrWord := v.setWidth 32

/-- What Fetch writes when it has fetched `w` at `pc` (R412). -/
def afterFetch (pc : Word) (w : InstrWord) (s : State) : State :=
  let nf := nextFetch s pc (preDecode w)
  { s with
    dNxt := Snap.of { pc := pc, word := w, predTaken := nf.predTaken, predNext := nf.next }
    fNxt := { pc := nf.next, bubble := nf.block, stall := false } }

/-- The Fetch stage. -/
def fetchStage (s : State) : State :=
  if s.fCur.bubble then
    { s with dNxt := Snap.bubble, fNxt := { pc := s.fCur.pc, bubble := true, stall := false } }
  else
    match fetch32 s s.fCur.pc with
    | .raised s' => s'
    | .ok s' v t => report (if s.cfg.chargeFetchLatency then t else 1) (afterFetch s.fCur.pc (fetchedWord v) s')

/-! ### Forwarding and the load-use hold (R430, R432) -/

/-- Whether a producer of `rd = d` forwards to a source, `done` saying that the source already has a value. -/
def forwardsTo (d : Reg) (src : Option Reg) (done : Bool) : Bool := d != 0 && src == some d && !done

/-- A producer offers `v` for its destination to the sources of `E.nxt` (R430). -/
def forward (d : Option Reg) (v : Word) (s : State) : State :=
  match d, s.eNxt.slot with
  | some r, some e =>
    let h1 := forwardsTo r e.inst.op.srcs.1 s.sig.fwd1
    let h2 := forwardsTo r e.inst.op.srcs.2 s.sig.fwd2
    { s with
      eNxt := { s.eNxt with slot := some { e with op1 := if h1 then v else e.op1, op2 := if h2 then v else e.op2 } }
      sig := { s.sig with fwd1 := s.sig.fwd1 || h1, fwd2 := s.sig.fwd2 || h2 } }
  | _, _ => s

/-- Whether the load in `E.cur` is a load-use hazard for `E.nxt` (R432). -/
def loadUse (producer : Instr) (consumer : Option ESlot) : Bool :=
  producer.isLoad &&
    (match producer.dst, consumer with
     | some d, some e => d != 0 && (e.inst.op.srcs.1 == some d || e.inst.op.srcs.2 == some d)
     | _, _ => false)

/-- The load-use hold: Fetch and Decode keep their registers and a bubble enters Execute (R432). -/
def holdForLoad (s : State) : State :=
  countLoadUse { s with
    fNxt := { s.fNxt with stall := true }
    dNxt := { s.dNxt with stall := true }
    eNxt := Snap.bubble }

/-! ### Decode (R420 to R422) -/

/-- `E.nxt` for a decoded word, before `exec` reads its operands. -/
def issue (i : Instr) (d : DSlot) (s : State) : State :=
  { s with eNxt := Snap.of { pc := d.pc, inst := { word := d.word, addr := d.pc, op := i }, op1 := 0, op2 := 0,
                             predTaken := d.predTaken, predNext := d.predNext } }

/-- The Decode stage; it costs 1 (R440). -/
def decodeStage (s : State) : Host.Outcome State Fault Refusal :=
  match s.dCur.slot with
  | none => .next { s with eNxt := Snap.bubble }
  | some d =>
    match decode s.cfg.shamt6 d.word with
    | .reject _ => .next (raise (.decodeError d.pc d.word) s)
    | .ok i => exec i (atPhase .decode (report 1 (issue i d s)))

/-! ### Execute (R423, R424) -/

/-- Execute forwards `M.nxt.val_e`, unless the instruction is a load, and then looks for a load-use hazard (R423). -/
def afterExecute (i : Instr) (s : State) : State :=
  let s' := match s.mNxt.slot with
    | some x => if i.isLoad then s else forward i.dst x.valE s
    | none => s
  if loadUse i s'.eNxt.slot then holdForLoad s' else s'

/-- The Execute stage. -/
def executeStage (s : State) : Host.Outcome State Fault Refusal :=
  match s.eCur.slot with
  | none => .next { s with mNxt := Snap.bubble }
  | some e => thenStage (exec e.inst.op (atPhase .execute s)) fun s' => .next (afterExecute e.inst.op s')

/-! ### MemoryAccess (R426) -/

/-- MemoryAccess forwards `W.nxt.val_e` (R430). -/
def afterMemory (i : Instr) (s : State) : State :=
  match s.wNxt.slot with
  | some x => forward i.dst x.valE s
  | none => s

/-- The MemoryAccess stage. -/
def memoryStage (s : State) : Host.Outcome State Fault Refusal :=
  match s.mCur.slot with
  | none => .next { s with wNxt := Snap.bubble }
  | some x => thenStage (exec x.inst.op (atPhase .memory s)) fun s' => .next (afterMemory x.inst.op s')

/-! ### WriteBack (R427, R428) -/

/-- The WriteBack stage; it costs 1 (R440) and forwards `W.cur.val_e` (R430). -/
def writeBackStage (s : State) : Host.Outcome State Fault Refusal :=
  match s.wCur.slot with
  | none => .next s
  | some x => thenStage (exec x.inst.op (atPhase .writeBack (report 1 s))) fun s' => .next (forward x.inst.op.dst x.valE s')

/-! ### UpdatePipeline (R444, R450) -/

/-- The cycle's cost: `max(1, …)` (R444). -/
def cycleCost (s : State) : Nat := max 1 s.sig.cost

/-- UpdatePipeline: the counters, then every `nxt` becomes `cur`, but for a held `F` or `D` (R450). -/
def updatePipeline (s : State) : State :=
  { s with
    ctr := { s.ctr with steps := s.ctr.steps + 1, cycleCount := s.ctr.cycleCount + cycleCost s }
    fCur := if s.fNxt.stall then s.fCur else { s.fNxt with stall := false }
    dCur := if s.dNxt.stall then s.dCur else { s.dNxt with stall := false }
    eCur := s.eNxt
    mCur := s.mNxt
    wCur := s.wNxt
    sig := Signals.idle }

/-- One cycle (R410), which starts with no signal of an earlier one. -/
def cycle (s : State) : Host.Outcome State Fault Refusal :=
  thenStage (.next (fetchStage { s with sig := Signals.idle })) fun s1 =>
  thenStage (decodeStage s1) fun s2 =>
  thenStage (executeStage s2) fun s3 =>
  thenStage (memoryStage s3) fun s4 =>
  thenStage (writeBackStage s4) fun s5 => .next (updatePipeline s5)

/-- The architectural PC (R24): the address of the oldest instruction not yet retired. -/
def archPc (s : State) : Word :=
  match s.wCur.slot, s.mCur.slot, s.eCur.slot, s.dCur.slot with
  | some x, _, _, _ => x.pc
  | none, some x, _, _ => x.pc
  | none, none, some x, _ => x.pc
  | none, none, none, some x => x.pc
  | none, none, none, none => s.fCur.pc

end Sys2Proof.Machine
end

