-- ==== Sys2Proof/Machine/Loader.lean ====
section
/-! DEFINITION. What the external loader does before cycle 0 (70_reset_and_hazards.md R400, R402, R403; 20_memory.md R65): page
allocation and the placing of bytes. No stage and no instruction calls any of it. -/

namespace Sys2Proof.Machine

/-- The page table with one more entry, by rising page number. -/
def insertPage : List (Nat × PageEntry) → Nat → PageEntry → List (Nat × PageEntry)
  | [], v, e => [(v, e)]
  | (v', e') :: pt, v, e =>
    if v < v' then (v, e) :: (v', e') :: pt
    else if v' = v then (v, e) :: pt
    else (v', e') :: insertPage pt v e

/-- `AllocatePage(vpn)` (R65). Which free frame is drawn is not determined, so the draw is an argument: every `pick` names some
frame of `Free`, and every frame is named by some `pick` (log entry 9). An empty pool is `FrameExhausted` (R309). -/
def allocatePage (pick vpn : Nat) (s : State) : State :=
  match s.free with
  | [] => raise (.frameExhausted vpn) s
  | f :: fs =>
    let frame := (f :: fs).getD (pick % (f :: fs).length) f
    { s with free := (f :: fs).erase frame, pt := insertPage s.pt vpn { ppn := BitVec.ofNat 64 frame, valid := true } }

/-- Give a page to an address the loader touches first (90_conflicts.md C2). A loader that has raised `FrameExhausted` does no
further work: the launch state stays `Fatal` of the page that failed (R309, R302). -/
def touchPage (pick : Nat) (vaddr : Word) (s : State) : State :=
  if s.status.isFatal then s else
  match lookupPage s.pt (vaddr.toNat / s.cfg.pageSize) with
  | some e => if e.valid then s else allocatePage pick (vaddr.toNat / s.cfg.pageSize) s
  | none => allocatePage pick (vaddr.toNat / s.cfg.pageSize) s

/-- Set the byte at physical address `p` in every valid line that contains it. At launch no line is valid (R39). -/
def pokeLevels (p : Nat) (b : Byte) : List LevelCfg → List Level → List Level
  | c :: cs, lv :: lvs =>
    (match findHit (lv.ways (c.set p)) (c.tag p) with
     | some w => lv.setLine (c.set p) w { lv.line (c.set p) w with data := (lv.line (c.set p) w).data.set (c.off p) b }
     | none => lv) :: pokeLevels p b cs lvs
  | _, lvs => lvs

/-- Make `b` the byte at physical address `p`, in memory and in every cached copy of it. -/
def poke (p : Nat) (b : Byte) (s : State) : State :=
  { s with storage := { s.storage with
      levels := pokeLevels p b s.cfg.levels s.storage.levels
      pmem := s.storage.pmem.write p b } }

/-- Place one byte at a virtual address, on a page of its own drawing if it has none; nothing once the loader has raised. -/
def loadByte (pick : Nat) (vaddr : Word) (b : Byte) (s : State) : State :=
  let s' := touchPage pick vaddr s
  if s'.status.isFatal then s' else
  match translate s' vaddr 1 with
  | .ok p => poke p b s'
  | .fail _ => s'

/-- Place bytes from a virtual address on. -/
def loadBytes (pick : Nat) : Word → List Byte → State → State
  | _, [], s => s
  | vaddr, b :: bs, s => loadBytes pick (vaddr + 1) bs (loadByte pick vaddr b s)

/-- Place instruction words from a virtual address on (R91, R120). -/
def loadWords (pick : Nat) (vaddr : Word) (ws : List InstrWord) (s : State) : State :=
  loadBytes pick vaddr (ws.flatMap bytesOfWord) s

/-- The machine with one instruction of `nbits` bits placed in memory where the next cycle fetches: at `F.cur.pc`, made a multiple of 4 on
a mapped page (the lowest free frame if it had none), with the fetch block clear and the status `Running` (log entry 10). -/
def placeWord (s : State) (nbits w : Nat) : State :=
  let pc := s.fCur.pc - BitVec.ofNat 64 (s.fCur.pc.toNat % 4)
  loadBytes 0 pc (bytesOfWord (BitVec.ofNat 32 (w % 2 ^ nbits)))
    { s with fCur := { pc := pc, bubble := false, stall := false }, status := .running }

/-! ### A pipeline full of one instruction (log entry 10)

One step is one cycle, and one cycle performs five parts of five instructions (R10, R401). So that the very next step performs the
whole of one instruction, every pipeline register holds that instruction. -/

/-- The state a stage answers. -/
def answered (o : Host.Outcome State Fault Refusal) (s : State) : State :=
  match o with
  | .next t => t
  | .fault _ => s
  | .refused _ => s

/-- What a stage produced for the register behind it: a bubble if it raised. -/
def produced {α : Type} (s : State) (x : Snap α) : Snap α := if s.status.isFatal then Snap.bubble else x

/-- The machine with `D`, `E`, `M` and `W` as the stages produce them for the instruction at `F.cur.pc` when it goes through them
alone. The stages work on a copy: nothing else of the machine changes. -/
def fillPipeline (s : State) : State :=
  let f := fetchStage s
  let d := produced f f.dNxt
  let fd := answered (decodeStage { f with dCur := d }) f
  let e := produced fd fd.eNxt
  let fe := answered (executeStage { fd with eCur := e }) fd
  let m := produced fe fe.mNxt
  let fm := answered (memoryStage { fe with mCur := m }) fe
  { s with dCur := d, eCur := e, mCur := m, wCur := produced fm fm.wNxt }

end Sys2Proof.Machine
end

