-- ==== Sys2Proof/Machine/Step.lean ====
section
/-! DEFINITION. One step of the machine is one cycle (70_reset_and_hazards.md R410; 00_scope.md R10). -/

namespace Sys2Proof.Machine

/-- A running machine takes one cycle. `Exited` and `Fatal` have no successor (R46, R272), and a configuration that breaks R7 has
no run (R312). -/
def step (s : State) : Host.Outcome State Fault Refusal :=
  match s.status with
  | .exited => .fault .afterExit
  | .fatal k => .fault (.afterFatal k)
  | .running => if s.cfg.admitted then cycle s else .refused .configNotAdmitted

/-- The machine with an instruction placed where the next step fetches it, and with every pipeline register at that instruction, so that
the next step fetches, decodes, executes and retires it and nothing else (log entry 10). -/
def State.withFetchWord (s : State) (nbits w : Nat) : State := fillPipeline (placeWord s nbits w)

end Sys2Proof.Machine
end

