-- ==== Sys2Proof/Safety.lean ====
section
/-! DEFINITION. What the claims speak of: the classes of instructions, the invariants of a machine between two cycles, the state
an instruction leaves, runs, and what timing may change. No step uses any of it. -/

namespace Sys2Proof

/-! ### Classes of instructions -/

/-- An access to memory: a load or a store, and its width (R92). -/
structure MemOp where
  isRead : Bool
  bytes : Nat
  deriving DecidableEq, Repr

/-- What the instruction does to memory (R92): whether it loads, and how many bytes. -/
def Instr.access : Instr → Option MemOp
  | .lui _ _ => none
  | .auipc _ _ => none
  | .jal _ _ => none
  | .jalr _ _ _ => none
  | .beq _ _ _ => none
  | .bne _ _ _ => none
  | .blt _ _ _ => none
  | .bge _ _ _ => none
  | .bltu _ _ _ => none
  | .bgeu _ _ _ => none
  | .lb _ _ _ => some ⟨true, 1⟩
  | .lh _ _ _ => some ⟨true, 2⟩
  | .lw _ _ _ => some ⟨true, 4⟩
  | .ld _ _ _ => some ⟨true, 8⟩
  | .lbu _ _ _ => some ⟨true, 1⟩
  | .lhu _ _ _ => some ⟨true, 2⟩
  | .lwu _ _ _ => some ⟨true, 4⟩
  | .sb _ _ _ => some ⟨false, 1⟩
  | .sh _ _ _ => some ⟨false, 2⟩
  | .sw _ _ _ => some ⟨false, 4⟩
  | .sd _ _ _ => some ⟨false, 8⟩
  | .addi _ _ _ => none
  | .slti _ _ _ => none
  | .sltiu _ _ _ => none
  | .xori _ _ _ => none
  | .ori _ _ _ => none
  | .andi _ _ _ => none
  | .slli _ _ _ => none
  | .srli _ _ _ => none
  | .srai _ _ _ => none
  | .add _ _ _ => none
  | .sub _ _ _ => none
  | .sll _ _ _ => none
  | .slt _ _ _ => none
  | .sltu _ _ _ => none
  | .xor _ _ _ => none
  | .srl _ _ _ => none
  | .sra _ _ _ => none
  | .or _ _ _ => none
  | .and _ _ _ => none
  | .mul _ _ _ => none
  | .mulh _ _ _ => none
  | .div _ _ _ => none
  | .rem _ _ _ => none
  | .addiw _ _ _ => none
  | .slliw _ _ _ => none
  | .srliw _ _ _ => none
  | .sraiw _ _ _ => none
  | .addw _ _ _ => none
  | .subw _ _ _ => none
  | .sllw _ _ _ => none
  | .srlw _ _ _ => none
  | .sraw _ _ _ => none
  | .ecall => none

/-- The six conditional branches (R211). -/
def Instr.isBranch : Instr → Bool
  | .lui _ _ => false
  | .auipc _ _ => false
  | .jal _ _ => false
  | .jalr _ _ _ => false
  | .beq _ _ _ => true
  | .bne _ _ _ => true
  | .blt _ _ _ => true
  | .bge _ _ _ => true
  | .bltu _ _ _ => true
  | .bgeu _ _ _ => true
  | .lb _ _ _ => false
  | .lh _ _ _ => false
  | .lw _ _ _ => false
  | .ld _ _ _ => false
  | .lbu _ _ _ => false
  | .lhu _ _ _ => false
  | .lwu _ _ _ => false
  | .sb _ _ _ => false
  | .sh _ _ _ => false
  | .sw _ _ _ => false
  | .sd _ _ _ => false
  | .addi _ _ _ => false
  | .slti _ _ _ => false
  | .sltiu _ _ _ => false
  | .xori _ _ _ => false
  | .ori _ _ _ => false
  | .andi _ _ _ => false
  | .slli _ _ _ => false
  | .srli _ _ _ => false
  | .srai _ _ _ => false
  | .add _ _ _ => false
  | .sub _ _ _ => false
  | .sll _ _ _ => false
  | .slt _ _ _ => false
  | .sltu _ _ _ => false
  | .xor _ _ _ => false
  | .srl _ _ _ => false
  | .sra _ _ _ => false
  | .or _ _ _ => false
  | .and _ _ _ => false
  | .mul _ _ _ => false
  | .mulh _ _ _ => false
  | .div _ _ _ => false
  | .rem _ _ _ => false
  | .addiw _ _ _ => false
  | .slliw _ _ _ => false
  | .srliw _ _ _ => false
  | .sraiw _ _ _ => false
  | .addw _ _ _ => false
  | .subw _ _ _ => false
  | .sllw _ _ _ => false
  | .srlw _ _ _ => false
  | .sraw _ _ _ => false
  | .ecall => false

/-- JALR. -/
def Instr.isJalr : Instr → Bool
  | .lui _ _ => false
  | .auipc _ _ => false
  | .jal _ _ => false
  | .jalr _ _ _ => true
  | .beq _ _ _ => false
  | .bne _ _ _ => false
  | .blt _ _ _ => false
  | .bge _ _ _ => false
  | .bltu _ _ _ => false
  | .bgeu _ _ _ => false
  | .lb _ _ _ => false
  | .lh _ _ _ => false
  | .lw _ _ _ => false
  | .ld _ _ _ => false
  | .lbu _ _ _ => false
  | .lhu _ _ _ => false
  | .lwu _ _ _ => false
  | .sb _ _ _ => false
  | .sh _ _ _ => false
  | .sw _ _ _ => false
  | .sd _ _ _ => false
  | .addi _ _ _ => false
  | .slti _ _ _ => false
  | .sltiu _ _ _ => false
  | .xori _ _ _ => false
  | .ori _ _ _ => false
  | .andi _ _ _ => false
  | .slli _ _ _ => false
  | .srli _ _ _ => false
  | .srai _ _ _ => false
  | .add _ _ _ => false
  | .sub _ _ _ => false
  | .sll _ _ _ => false
  | .slt _ _ _ => false
  | .sltu _ _ _ => false
  | .xor _ _ _ => false
  | .srl _ _ _ => false
  | .sra _ _ _ => false
  | .or _ _ _ => false
  | .and _ _ _ => false
  | .mul _ _ _ => false
  | .mulh _ _ _ => false
  | .div _ _ _ => false
  | .rem _ _ _ => false
  | .addiw _ _ _ => false
  | .slliw _ _ _ => false
  | .srliw _ _ _ => false
  | .sraiw _ _ _ => false
  | .addw _ _ _ => false
  | .subw _ _ _ => false
  | .sllw _ _ _ => false
  | .srlw _ _ _ => false
  | .sraw _ _ _ => false
  | .ecall => false

/-- The immediate operand as the instruction's rule uses it, a 64-bit value (R125 to R129); none for an instruction without one. -/
def Instr.immediate : Instr → Option Word
  | .lui _ imm => some ((imm ++ 0#12).signExtend 64)
  | .auipc _ imm => some ((imm ++ 0#12).signExtend 64)
  | .jal _ off => some (off.signExtend 64)
  | .jalr _ _ imm => some (imm.signExtend 64)
  | .beq _ _ off => some (off.signExtend 64)
  | .bne _ _ off => some (off.signExtend 64)
  | .blt _ _ off => some (off.signExtend 64)
  | .bge _ _ off => some (off.signExtend 64)
  | .bltu _ _ off => some (off.signExtend 64)
  | .bgeu _ _ off => some (off.signExtend 64)
  | .lb _ _ imm => some (imm.signExtend 64)
  | .lh _ _ imm => some (imm.signExtend 64)
  | .lw _ _ imm => some (imm.signExtend 64)
  | .ld _ _ imm => some (imm.signExtend 64)
  | .lbu _ _ imm => some (imm.signExtend 64)
  | .lhu _ _ imm => some (imm.signExtend 64)
  | .lwu _ _ imm => some (imm.signExtend 64)
  | .sb _ _ imm => some (imm.signExtend 64)
  | .sh _ _ imm => some (imm.signExtend 64)
  | .sw _ _ imm => some (imm.signExtend 64)
  | .sd _ _ imm => some (imm.signExtend 64)
  | .addi _ _ imm => some (imm.signExtend 64)
  | .slti _ _ imm => some (imm.signExtend 64)
  | .sltiu _ _ imm => some (imm.signExtend 64)
  | .xori _ _ imm => some (imm.signExtend 64)
  | .ori _ _ imm => some (imm.signExtend 64)
  | .andi _ _ imm => some (imm.signExtend 64)
  | .slli _ _ _ => none
  | .srli _ _ _ => none
  | .srai _ _ _ => none
  | .add _ _ _ => none
  | .sub _ _ _ => none
  | .sll _ _ _ => none
  | .slt _ _ _ => none
  | .sltu _ _ _ => none
  | .xor _ _ _ => none
  | .srl _ _ _ => none
  | .sra _ _ _ => none
  | .or _ _ _ => none
  | .and _ _ _ => none
  | .mul _ _ _ => none
  | .mulh _ _ _ => none
  | .div _ _ _ => none
  | .rem _ _ _ => none
  | .addiw _ _ imm => some (imm.signExtend 64)
  | .slliw _ _ _ => none
  | .srliw _ _ _ => none
  | .sraiw _ _ _ => none
  | .addw _ _ _ => none
  | .subw _ _ _ => none
  | .sllw _ _ _ => none
  | .srlw _ _ _ => none
  | .sraw _ _ _ => none
  | .ecall => none

/-- The shift amount that an OP-IMM or OP-IMM-32 shift carries (R130); none for any other instruction. -/
def Instr.shiftAmount : Instr → Option Nat
  | .lui _ _ => none
  | .auipc _ _ => none
  | .jal _ _ => none
  | .jalr _ _ _ => none
  | .beq _ _ _ => none
  | .bne _ _ _ => none
  | .blt _ _ _ => none
  | .bge _ _ _ => none
  | .bltu _ _ _ => none
  | .bgeu _ _ _ => none
  | .lb _ _ _ => none
  | .lh _ _ _ => none
  | .lw _ _ _ => none
  | .ld _ _ _ => none
  | .lbu _ _ _ => none
  | .lhu _ _ _ => none
  | .lwu _ _ _ => none
  | .sb _ _ _ => none
  | .sh _ _ _ => none
  | .sw _ _ _ => none
  | .sd _ _ _ => none
  | .addi _ _ _ => none
  | .slti _ _ _ => none
  | .sltiu _ _ _ => none
  | .xori _ _ _ => none
  | .ori _ _ _ => none
  | .andi _ _ _ => none
  | .slli _ _ shamt => some shamt.toNat
  | .srli _ _ shamt => some shamt.toNat
  | .srai _ _ shamt => some shamt.toNat
  | .add _ _ _ => none
  | .sub _ _ _ => none
  | .sll _ _ _ => none
  | .slt _ _ _ => none
  | .sltu _ _ _ => none
  | .xor _ _ _ => none
  | .srl _ _ _ => none
  | .sra _ _ _ => none
  | .or _ _ _ => none
  | .and _ _ _ => none
  | .mul _ _ _ => none
  | .mulh _ _ _ => none
  | .div _ _ _ => none
  | .rem _ _ _ => none
  | .addiw _ _ _ => none
  | .slliw _ _ shamt => some shamt.toNat
  | .srliw _ _ shamt => some shamt.toNat
  | .sraiw _ _ shamt => some shamt.toNat
  | .addw _ _ _ => none
  | .subw _ _ _ => none
  | .sllw _ _ _ => none
  | .srlw _ _ _ => none
  | .sraw _ _ _ => none
  | .ecall => none

/-- The three loads that extend with zeros (R235 to R237). -/
def Instr.loadsUnsigned : Instr → Bool
  | .lbu _ _ _ | .lhu _ _ _ | .lwu _ _ _ => true
  | _ => false

/-! ### Configurations -/

/-- Every level's lines divide physical memory, so that a line that starts in memory ends in it. -/
def Config.linesDivide (cfg : Config) : Prop := ∀ c ∈ cfg.levels, c.lineSize ∣ cfg.physMemSize

/-- No prefetch can raise: none is made, or one past physical memory is skipped (R85, R86). -/
def Config.prefetchSafe (cfg : Config) : Prop := cfg.prefetchOob = .skip ∨ ∀ c ∈ cfg.levels, c.prefetch ≤ 1

/-- An access of `n` bytes at physical address `p` lies in one line of the top layer (R71). -/
def Config.inLine (cfg : Config) (p n : Nat) : Prop := ∀ c ∈ cfg.levels.head?, c.off p + n ≤ c.lineSize

/-- The settings without what R445 says cannot matter: costs, latencies and `ChargeFetchLatency`. -/
def Config.untimed (cfg : Config) : Config :=
  { cfg with
    levels := cfg.levels.map fun c => { c with hitLat := 0, busLat := 0 }
    memHitLat := 0
    memBusLat := 0
    cost := { add64 := 0, add32 := 0, mul64 := 0, div64 := 0 }
    chargeFetchLatency := true }

namespace Machine

/-! ### Numbers in bytes -/

/-- The number that bytes hold, the first the least significant (R91). -/
def leNat : List Byte → Nat
  | [] => 0
  | b :: bs => b.toNat + 256 * leNat bs

/-- The two's complement reading of an `n`-byte number (R8). -/
def signedOf (n v : Nat) : Int := if v < 2 ^ (8 * n - 1) then v else (v : Int) - 2 ^ (8 * n)

/-! ### The storage between two requests -/

/-- What holds of a cache level whatever requests it has served: its shape (R39, R70), at most one way per tag (R72), the order of
recency (R79), only valid lines dirty, none under write-through (R82), and the statistics (R87). -/
structure Level.Sound (c : LevelCfg) (lv : Level) : Prop where
  sets : lv.sets.length = c.sets
  ways : ∀ ws ∈ lv.sets, ws.length = c.assoc
  data : ∀ ws ∈ lv.sets, ∀ l ∈ ws, l.data.length = c.lineSize
  oneWay : ∀ ws ∈ lv.sets, ws.Pairwise fun a b => a.valid = true → b.valid = true → a.tag ≠ b.tag
  recent : ∀ ws ∈ lv.sets, ∀ l ∈ ws, l.recency ≤ lv.tick
  order : lv.sets.flatten.Pairwise fun a b => a.valid = true → b.valid = true → a.recency ≠ b.recency
  dirtyValid : ∀ ws ∈ lv.sets, ∀ l ∈ ws, l.dirty = true → l.valid = true
  clean : c.wt = true → ∀ ws ∈ lv.sets, ∀ l ∈ ws, l.dirty = false
  counted : lv.accesses = lv.hits + lv.misses

/-- The chain is as long as its settings say, each level is sound, and memory is in its canonical form within its size (R43). -/
structure Storage.Sound (cfg : Config) (st : Storage) : Prop where
  levels : List.Forall₂ Level.Sound cfg.levels st.levels
  canonical : st.pmem.wf
  sized : ∀ x ∈ st.pmem, x.1 < cfg.physMemSize

/-- A clean line holds what the layers below show (the fact behind R97). -/
def cleanAgree : List LevelCfg → List Level → Memory → Prop
  | c :: cs, lv :: lvs, m =>
    (∀ p w, findHit (lv.ways (c.set p)) (c.tag p) = some w → (lv.line (c.set p) w).dirty = false →
      (lv.line (c.set p) w).data.getD (c.off p) Memory.blank = viewAt cs lvs m p) ∧ cleanAgree cs lvs m
  | _, _, _ => True

/-- Every valid line lies in physical memory. -/
def linesInMemory (size : Nat) : List LevelCfg → List Level → Prop
  | c :: cs, lv :: lvs =>
    (∀ p w, findHit (lv.ways (c.set p)) (c.tag p) = some w → c.base p + c.lineSize ≤ size) ∧ linesInMemory size cs lvs
  | _, _ => True

/-- The storage is as the requests of a run that has not raised leave it. -/
structure Storage.Coherent (cfg : Config) (st : Storage) : Prop where
  clean : cleanAgree cfg.levels st.levels st.pmem
  inMemory : linesInMemory cfg.physMemSize cfg.levels st.levels

/-! ### The machine between two cycles -/

/-- What holds of every state a run reaches, at its end too: the hard-wired register (R21), the predictor table (R38), the
storage, no signal left over (R10), and `stall` set nowhere but in `F.nxt` and `D.nxt` (R30, R451). -/
structure State.Sound (s : State) : Prop where
  x0 : s.regs[0] = 0
  bhtSize : s.bht.length = s.cfg.tableSize
  oneBit : s.cfg.predStrategy = .oneBit → ∀ e ∈ s.bht, e.val ≤ 1
  storage : s.storage.Sound s.cfg
  idle : s.sig = Signals.idle
  heldF : s.fCur.stall = false
  heldD : s.dCur.stall = false
  heldE : s.eCur.stall = false ∧ s.eNxt.stall = false
  heldM : s.mCur.stall = false ∧ s.mNxt.stall = false
  heldW : s.wCur.stall = false ∧ s.wNxt.stall = false

/-- What holds of the instructions in flight: each is the decoding of its word at its address (R36), nothing younger is in the
pipeline behind an ECALL (R260) or a JALR (R411), and fetch is blocked only while one of the two is in flight (R444). -/
structure State.Ordered (s : State) : Prop where
  instE : ∀ e, s.eCur.slot = some e → e.inst.addr = e.pc ∧ decode s.cfg.shamt6 e.inst.word = .ok e.inst.op
  instM : ∀ x, s.mCur.slot = some x → x.inst.addr = x.pc ∧ decode s.cfg.shamt6 x.inst.word = .ok x.inst.op
  instW : ∀ x, s.wCur.slot = some x → x.inst.addr = x.pc ∧ decode s.cfg.shamt6 x.inst.word = .ok x.inst.op
  callE : ∀ e, s.eCur.slot = some e → e.inst.op = .ecall → s.fCur.bubble = true ∧ s.dCur.slot = none
  callM : ∀ x, s.mCur.slot = some x → x.inst.op = .ecall → s.fCur.bubble = true ∧ s.dCur.slot = none ∧ s.eCur.slot = none
  callW : ∀ x, s.wCur.slot = some x → x.inst.op = .ecall →
    s.fCur.bubble = true ∧ s.dCur.slot = none ∧ s.eCur.slot = none ∧ s.mCur.slot = none
  jumpD : ∀ d, s.dCur.slot = some d → preDecode d.word = .jalr → s.fCur.bubble = true
  jumpE : ∀ e, s.eCur.slot = some e → e.inst.op.isJalr = true → s.fCur.bubble = true ∧ s.dCur.slot = none
  guessD : ∀ d, s.dCur.slot = some d → d.predTaken = true → ∃ off, preDecode d.word = .branch off
  guessE : ∀ e, s.eCur.slot = some e → e.predTaken = true → e.inst.op.isBranch = true
  blocked : s.status = .running → s.fCur.bubble = true →
    (∃ d, s.dCur.slot = some d ∧ preDecode d.word = .jalr) ∨
    (∃ e, s.eCur.slot = some e ∧ (e.inst.op.isJalr = true ∨ e.inst.op = .ecall)) ∨
    (∃ x, s.mCur.slot = some x ∧ x.inst.op = .ecall) ∨ (∃ x, s.wCur.slot = some x ∧ x.inst.op = .ecall)

/-- The launch premises of R403: every frame of the page table is in physical memory, no two entries share one, and `Free` is
exactly the frames no entry uses. -/
structure FramesApart (cfg : Config) (pt : List (Nat × PageEntry)) (free : List Nat) : Prop where
  inMemory : ∀ x ∈ pt, x.2.ppn.toNat < cfg.physMemSize / cfg.pageSize
  apart : pt.Pairwise fun x y => x.2.ppn ≠ y.2.ppn
  free : ∀ f, f ∈ free ↔ f < cfg.physMemSize / cfg.pageSize ∧ ∀ x ∈ pt, x.2.ppn.toNat ≠ f

/-! ### What an instruction leaves -/

/-- One more retired instruction, and the next address: nothing else. -/
def State.retire (s : State) (next : Word) : State :=
  { s with ctr := { s.ctr with instCount := s.ctr.instCount + 1 }, fCur := { s.fCur with pc := next } }

/-- The same with `v` written to `rd` (R21: nothing for `x0`). -/
def State.retireWith (s : State) (rd : Reg) (v next : Word) : State := (writeReg rd v s).retire next

/-- A machine in which `exec` performs the whole of an instruction: running, and between two cycles. -/
structure State.Ready (s : State) : Prop where
  running : s.status = .running
  between : s.sig.phase = .between

/-- `s` runs: a cycle is what comes next (R46, R312). -/
structure State.Runs (s : State) : Prop where
  running : s.status = .running
  admitted : s.cfg.admitted = true

/-! ### What a cycle is held to -/

/-- The outcome of a conditional branch on operands `a` and `b`, and the address that follows it at `pc` (R200 to R206); none for
any other instruction. -/
def branchOutcome (pc a b : Word) : Instr → Option (Bool × Word)
  | .beq _ _ off => some (decide (a = b), if a = b then pc + off.signExtend 64 else pc + 4)
  | .bne _ _ off => some (decide (a ≠ b), if a ≠ b then pc + off.signExtend 64 else pc + 4)
  | .blt _ _ off => some (a.slt b, if a.slt b then pc + off.signExtend 64 else pc + 4)
  | .bge _ _ off => some (!a.slt b, if a.slt b then pc + 4 else pc + off.signExtend 64)
  | .bltu _ _ off => some (a.ult b, if a.ult b then pc + off.signExtend 64 else pc + 4)
  | .bgeu _ _ off => some (!a.ult b, if a.ult b then pc + 4 else pc + off.signExtend 64)
  | _ => none

/-- What an instruction decoded in the cycle from `s` to `t` must have read for register `r`: the value of the youngest older
instruction in flight that writes it, else the register's (R430, R431). -/
def newestValue (s t : State) (r : Reg) : Word :=
  if r = 0 then 0
  else if (s.eCur.slot.bind fun e => e.inst.op.dst) = some r then (t.mCur.slot.map MSlot.valE).getD 0
  else if (s.mCur.slot.bind fun x => x.inst.op.dst) = some r then (t.wCur.slot.map MSlot.valE).getD 0
  else if (s.wCur.slot.bind fun x => x.inst.op.dst) = some r then (s.wCur.slot.map MSlot.valE).getD 0
  else readReg s r

/-- What Fetch reports in the cycle from `s` (R440). -/
def fetchCost (s : State) : Nat :=
  if s.fCur.bubble then 0
  else match fetch32 s s.fCur.pc with
    | .ok _ _ t => if s.cfg.chargeFetchLatency then t else 1
    | .raised _ => 0

/-- What Execute reports (R440, R442). -/
def executeCost (s : State) : Nat :=
  match s.eCur.slot with
  | none => 0
  | some e => costOf s.cfg.cost e.inst.op.opClass

/-- What MemoryAccess reports: its access is served after Fetch's (R440, R443). -/
def memoryCost (s : State) : Nat :=
  match s.mCur.slot with
  | none => 0
  | some x =>
    match x.inst.op.access with
    | none => 1
    | some op =>
      match access .memory { s with storage := (fetchStage s).storage } x.valE op.bytes op.isRead x.valC with
      | .ok _ _ t => t
      | .raised _ => 0

/-- What Decode and WriteBack report: 1 when active (R440). -/
def activeCost {α : Type} (x : Option α) : Nat := if x.isSome then 1 else 0

/-! ### Runs -/

/-- `n` steps. -/
def steps : Nat → State → Host.Outcome State Fault Refusal
  | 0, s => .next s
  | n + 1, s =>
    match step s with
    | .next t => steps n t
    | .fault f => .fault f
    | .refused r => .refused r

/-- A safe run of `n` steps: no fatal error ends it. -/
def SafeRun (n : Nat) (s : State) : Prop := ∃ t, steps n s = .next t ∧ t.status.isFatal = false

/-- The state without its times (R445). -/
def State.untimed (s : State) : State :=
  { s with cfg := s.cfg.untimed, ctr := { s.ctr with cycleCount := 0 }, sig := { s.sig with cost := 0 } }

end Machine

end Sys2Proof
end

