-- ==== Sys2Proof/Certificates/Slice0/Obligations.lean ====
section
/-! DEFINITION. The statements for the provers, by the spec's numbered rules. A statement about an instruction's whole life is
about `exec` between two cycles (`State.Ready`, log entry 6); a statement about the pipeline is about `step`. -/

open Sys2Proof Sys2Proof.Machine

/-! ### Encoding (30_encoding.md) -/

/-- Decoding an encoded well-formed instruction gives it back, with every operand, under both values of `Shamt6`. -/
def Obligations.DecodeOfEncode : Prop :=
  ∀ (shamt6 : Bool) (i : Instr), i.wf shamt6 = true → decode shamt6 (encode i) = .ok i

/-- A word that decodes is the encoding of what it decodes to, which is well formed: no word has two meanings and no bit is lost. -/
def Obligations.EncodeOfDecode : Prop :=
  ∀ (shamt6 : Bool) (w : InstrWord) (i : Instr), decode shamt6 w = .ok i → i.wf shamt6 = true ∧ encode i = w

/-- R121, R134: a word decodes exactly when it matches a row of the opcode map, to that row's operation; at most one row matches.
R130: `Shamt6 = false` takes from the decoder the OP-IMM shift words with bit 25 set, and nothing else. -/
def Obligations.DecoderFollowsOpcodeMap : Prop :=
  ∀ w : InstrWord,
    let longShift := opcodeOf w = 0b0010011#7 ∧ (func3Of w = 0b001#3 ∨ func3Of w = 0b101#3) ∧ w.getLsbD 25 = true
    (opcodeRows.filter fun r => r.hits w).length ≤ 1 ∧
    (∀ i, decode true w = .ok i → ∃ r ∈ opcodeRows, r.hits w = true ∧ r.mnemonic = i.mnemonic) ∧
    (∀ why, decode true w = .reject why → ∀ r ∈ opcodeRows, r.hits w = false) ∧
    (longShift → ∃ why, decode false w = .reject why) ∧ (¬ longShift → decode false w = decode true w)

/-- R132, R133: ECALL is one word; every other SYSTEM word, and a JALR word with another func3, is a decode failure. -/
def Obligations.OnlyTheEcallWord : Prop :=
  ∀ (shamt6 : Bool) (w : InstrWord),
    (decode shamt6 w = .ok .ecall ↔ w = 0x00000073#32) ∧
    (opcodeOf w = 0b1110011#7 → w ≠ 0x00000073#32 → ∃ why, decode shamt6 w = .reject why) ∧
    (opcodeOf w = 0b1100111#7 → func3Of w ≠ 0b000#3 → ∃ why, decode shamt6 w = .reject why)

/-- One word of each family, from the spec's examples, decodes to the instruction it stands for. -/
def Obligations.FamilyWords : Prop :=
  decodeTableWord 32 0x12345537 = some (.lui 10 0x12345) ∧
  decodeTableWord 32 0xFF758513 = some (.addi 10 11 (-9)) ∧
  decodeTableWord 32 0x03F59513 = some (.slli 10 11 63) ∧
  decodeTableWord 32 0x40C58533 = some (.sub 10 11 12) ∧
  decodeTableWord 32 0x02C5E533 = some (.rem 10 11 12) ∧
  decodeTableWord 32 0x4045D51B = some (.sraiw 10 11 4) ∧
  decodeTableWord 32 0x40C5D53B = some (.sraw 10 11 12) ∧
  decodeTableWord 32 0xFEB51CE3 = some (.bne 10 11 (-8)) ∧
  decodeTableWord 32 0x001000EF = some (.jal 1 0x800) ∧
  decodeTableWord 32 0x00008067 = some (.jalr 0 1 0) ∧
  decodeTableWord 32 0x0045E503 = some (.lwu 10 11 4) ∧
  decodeTableWord 32 0xFEC5BC23 = some (.sd 11 12 (-8)) ∧
  decodeTableWord 32 0x00000073 = some .ecall

/-- R125 to R129: the immediate of a decoded record, by the weights of its bits, with its range. -/
def Obligations.ImmediatesOfTheRecord : Prop :=
  ∀ r : Inst, let bit := fun k => ((r.word.getLsbD k).toNat : Int)
    (r.type = some .i →
      r.imm.toInt = -2048 * bit 31 + (r.word.extractLsb' 20 11).toNat ∧ -2048 ≤ r.imm.toInt ∧ r.imm.toInt ≤ 2047) ∧
    (r.type = some .s →
      r.imm.toInt = -2048 * bit 31 + 32 * (r.word.extractLsb' 25 6).toNat + (r.word.extractLsb' 7 5).toNat ∧
      -2048 ≤ r.imm.toInt ∧ r.imm.toInt ≤ 2047) ∧
    (r.type = some .sb →
      r.imm.toInt = -4096 * bit 31 + 2048 * bit 7 + 32 * (r.word.extractLsb' 25 6).toNat + 2 * (r.word.extractLsb' 8 4).toNat ∧
      -4096 ≤ r.imm.toInt ∧ r.imm.toInt ≤ 4094 ∧ r.imm.toInt % 2 = 0) ∧
    (r.type = some .u →
      r.imm.toInt = -2147483648 * bit 31 + 4096 * (r.word.extractLsb' 12 19).toNat ∧ r.imm.toInt % 4096 = 0) ∧
    (r.type = some .uj →
      r.imm.toInt = -1048576 * bit 31 + 4096 * (r.word.extractLsb' 12 8).toNat + 2048 * bit 20 +
        2 * (r.word.extractLsb' 21 10).toNat ∧
      -1048576 ≤ r.imm.toInt ∧ r.imm.toInt ≤ 1048574 ∧ r.imm.toInt % 2 = 0)

/-- R124, R125 to R130, R138, R139: of a word that decodes, the register operands are the fields of its record by type, the immediate
is the record's, the shift amount is its field of six or five bits, and Fetch, which sees the opcode alone, has made of it what it is. -/
def Obligations.RecordAgreesWithOperands : Prop :=
  ∀ (shamt6 : Bool) (w : InstrWord) (addr : Word) (i : Instr), decode shamt6 w = .ok i →
    let r : Inst := { word := w, addr := addr, op := i }
    let shift := r.type = some .i ∧ (r.opcode = 0b0010011#7 ∨ r.opcode = 0b0011011#7) ∧ (r.func3 = 0b001#3 ∨ r.func3 = 0b101#3)
    preDecode w = i.fetchKind ∧
    (i = .ecall → i.srcs = (some 10, some 17) ∧ i.dst = none ∧ i.immediate = none ∧ i.shiftAmount = none) ∧
    (r.type = some .r → i.srcs = (some r.rs1, some r.rs2) ∧ i.dst = some r.rd ∧ i.immediate = none ∧ i.shiftAmount = none) ∧
    (r.type = some .i → i ≠ .ecall → i.srcs = (some r.rs1, none) ∧ i.dst = some r.rd) ∧
    (r.type = some .i → i ≠ .ecall → ¬ shift → i.immediate = some r.imm ∧ i.shiftAmount = none) ∧
    (shift → i.immediate = none ∧
      i.shiftAmount = some (if r.opcode = 0b0010011#7 then (w.extractLsb' 20 6).toNat else (w.extractLsb' 20 5).toNat)) ∧
    (r.type = some .s ∨ r.type = some .sb → i.srcs = (some r.rs1, some r.rs2) ∧ i.dst = none) ∧
    (r.type = some .u ∨ r.type = some .uj → i.srcs = (none, none) ∧ i.dst = some r.rd) ∧
    (r.type = some .s ∨ r.type = some .sb ∨ r.type = some .u ∨ r.type = some .uj →
      i.immediate = some r.imm ∧ i.shiftAmount = none) ∧ r.type ≠ none

/-! ### Reset and launch (70_reset_and_hazards.md R400 to R403) -/

/-- R402: the launch state, for every launch argument. -/
def Obligations.LaunchState : Prop :=
  ∀ l : Launch, let s := State.launch l
    readReg s 0 = 0 ∧ (∀ r : Reg, r ≠ 0 → readReg s r = l.regs[r.toNat]'(r.isLt)) ∧
    s.fCur = { pc := l.entry, bubble := false, stall := false } ∧
    s.dCur = Snap.bubble ∧ s.dNxt = Snap.bubble ∧ s.eCur = Snap.bubble ∧ s.eNxt = Snap.bubble ∧
    s.mCur = Snap.bubble ∧ s.mNxt = Snap.bubble ∧ s.wCur = Snap.bubble ∧ s.wNxt = Snap.bubble ∧
    s.bht.length = l.cfg.tableSize ∧ (∀ e ∈ s.bht, e = l.cfg.predInit) ∧
    s.storage.levels.length = l.cfg.levels.length ∧
    (∀ lv ∈ s.storage.levels, lv.tick = 0 ∧ lv.accesses = 0 ∧ lv.hits = 0 ∧ lv.misses = 0 ∧ lv.writebacks = 0 ∧
      ∀ ws ∈ lv.sets, ∀ x ∈ ws, x.valid = false ∧ x.dirty = false ∧ x.promoted = false ∧ x.recency = 0) ∧
    s.pt = l.pt ∧ s.free = l.free ∧ s.storage.pmem = l.pmem ∧
    s.ctr.steps = 0 ∧ s.ctr.cycleCount = 0 ∧ s.ctr.instCount = 0 ∧ s.ctr.branchCount = 0 ∧ s.ctr.branchCorrect = 0 ∧
    s.ctr.controlHazards = 0 ∧ s.ctr.loadUseStalls = 0 ∧ s.status = .running ∧ s.out = [] ∧ s.input = l.input

/-- The invariants hold at reset. -/
def Obligations.ResetIsSound : Prop :=
  State.reset.Sound ∧ State.reset.Ordered ∧ State.reset.storage.Coherent State.reset.cfg

/-- The invariants hold at every launch with an admitted configuration and a canonical image inside physical memory. -/
def Obligations.LaunchIsSound : Prop :=
  ∀ l : Launch, l.cfg.admitted = true → l.pmem.wf → (∀ x ∈ l.pmem, x.1 < l.cfg.physMemSize) →
    (State.launch l).Sound ∧ (State.launch l).Ordered ∧ (State.launch l).storage.Coherent l.cfg

/-- R65, R309, R403: `AllocatePage` takes one frame out of the pool, whichever it draws, and keeps the launch premises; with an
empty pool it raises `FrameExhausted` and changes nothing else. -/
def Obligations.AllocatePageDrawsAFreeFrame : Prop :=
  ∀ (pick vpn : Nat) (s : State),
    (s.free = [] → allocatePage pick vpn s = raise (.frameExhausted vpn) s) ∧
    (s.free ≠ [] → s.free.Nodup → (∀ f ∈ s.free, f < 2 ^ 64) →
      ∃ f ∈ s.free, let t := allocatePage pick vpn s
        f ∉ t.free ∧ (∀ g, g ≠ f → (g ∈ t.free ↔ g ∈ s.free)) ∧
        lookupPage t.pt vpn = some { ppn := BitVec.ofNat 64 f, valid := true } ∧
        (∀ v, v ≠ vpn → lookupPage t.pt v = lookupPage s.pt v) ∧
        t = { s with pt := t.pt, free := t.free } ∧
        (s.pt.Pairwise (fun x y => x.1 < y.1) → lookupPage s.pt vpn = none → FramesApart s.cfg s.pt s.free →
          t.pt.Pairwise (fun x y => x.1 < y.1) ∧ FramesApart t.cfg t.pt t.free))

/-! ### The step and its invariants (60_exceptions.md, 70_reset_and_hazards.md) -/

/-- R46, R302, R312: a running machine has a next state; `Exited` and `Fatal` have none, and a configuration outside R7 has no run.
That a step without a successor answers a fault or a refusal is the model's form (log entries 11, 12, 22). -/
def Obligations.WhoHasAStep : Prop :=
  ∀ s : State,
    (s.Runs → ∃ t, step s = .next t) ∧ (s.status = .exited → step s = .fault .afterExit) ∧
    (∀ k, s.status = .fatal k → step s = .fault (.afterFatal k)) ∧
    (s.status = .running → s.cfg.admitted = false → step s = .refused .configNotAdmitted)

/-- R410, R420: a step runs the decoded instruction. The word in `D` is the one Fetch read at its address in an earlier cycle; when
it decodes to `i`, the step is `exec i` at its Decode part, after Fetch and before the later stages and the update. Each later
stage likewise runs `exec` of the instruction in its own register. -/
def Obligations.StepRunsDecodedInstruction : Prop :=
  ∀ s : State,
    (∀ d i, s.Runs → (fetchStage { s with sig := Signals.idle }).status.isFatal = false → s.dCur.slot = some d →
      decode s.cfg.shamt6 d.word = .ok i →
      step s =
        thenStage (exec i (atPhase .decode (report 1 (issue i d (fetchStage { s with sig := Signals.idle }))))) fun s2 =>
        thenStage (executeStage s2) fun s3 => thenStage (memoryStage s3) fun s4 =>
        thenStage (writeBackStage s4) fun s5 => .next (updatePipeline s5)) ∧
    (∀ e, s.eCur.slot = some e → executeStage s =
      thenStage (exec e.inst.op (atPhase .execute s)) fun u => .next (afterExecute e.inst.op u)) ∧
    (∀ x, s.mCur.slot = some x → memoryStage s =
      thenStage (exec x.inst.op (atPhase .memory s)) fun u => .next (afterMemory x.inst.op u)) ∧
    (∀ x, s.wCur.slot = some x → writeBackStage s =
      thenStage (exec x.inst.op (atPhase .writeBack (report 1 s))) fun u => .next (forward x.inst.op.dst x.valE u))

/-- Every step keeps what holds of every state: `x0`, the predictor table, the shape of every cache with at most one way per tag, no
dirty line under write-through, the statistics, canonical memory, no stray `stall`, no signal left over. -/
def Obligations.StepKeepsSound : Prop := ∀ s t : State, s.Sound → step s = .next t → t.Sound

/-- Every step keeps the order of the pipeline: decoded records are right, nothing younger follows an ECALL or a JALR, and fetch is
blocked only while one of them is in flight. -/
def Obligations.StepKeepsOrdered : Prop := ∀ s t : State, s.Ordered → step s = .next t → t.Ordered

/-- Every step that does not raise keeps the caches in agreement with the layers below them. -/
def Obligations.StepKeepsCoherent : Prop :=
  ∀ s t : State, s.Sound → s.storage.Coherent s.cfg → step s = .next t → t.status.isFatal = false → t.storage.Coherent t.cfg

/-- R22: only WriteBack writes a register: the destination of the instruction there, with `W.val_e`, or `a0` by a read call. -/
def Obligations.OnlyWriteBackWritesRegisters : Prop :=
  ∀ (s t : State) (r : Reg), step s = .next t → readReg t r ≠ readReg s r →
    ∃ x, s.wCur.slot = some x ∧
      (x.inst.op.dst = some r ∧ readReg t r = x.valE ∨ x.inst.op = .ecall ∧ r = 10 ∧ (x.valC = 3 ∨ x.valC = 4))

/-- R41, R42, R47, R65, R262, R271: no step changes the configuration, the page table or the pool; only an ECALL at WriteBack adds an
event (one), takes an input value (one) or ends the run by an exit. -/
def Obligations.OnlyEcallReachesTheHost : Prop :=
  ∀ s t : State, step s = .next t →
    t.cfg = s.cfg ∧ t.pt = s.pt ∧ t.free = s.free ∧
    (t.out = s.out ∨ ∃ e, t.out = s.out ++ [e]) ∧ (t.inputPos = s.inputPos ∨ t.inputPos = s.inputPos + 1) ∧
    (t.out ≠ s.out ∨ t.input ≠ s.input ∨ t.inputPos ≠ s.inputPos ∨ t.status = .exited →
      ∃ x, s.wCur.slot = some x ∧ x.inst.op = .ecall)

/-- R465: the predictor is trained once by every conditional branch that reaches Execute, with its outcome, in its own entry, and by
nothing else. -/
def Obligations.OnlyBranchesTrainThePredictor : Prop :=
  ∀ s t : State, step s = .next t →
    (∀ e taken actual, s.eCur.slot = some e → branchOutcome e.pc e.op1 e.op2 e.inst.op = some (taken, actual) →
      t.status.isFatal = false →
      t.bht = s.bht.set (e.pc.toNat / 4 % s.cfg.tableSize)
        (entryNext s.cfg.predStrategy (s.bht.getD (e.pc.toNat / 4 % s.cfg.tableSize) s.cfg.predInit) taken)) ∧
    (t.bht ≠ s.bht → ∃ e, s.eCur.slot = some e ∧ e.inst.op.isBranch = true)

/-- R461 to R464: the five predictors' predictions and transitions. -/
def Obligations.PredictorMachines : Prop :=
  ∀ (e : Fin 4) (taken : Bool),
    predictFrom .alwaysNotTaken e = false ∧ predictFrom .alwaysTaken e = true ∧
    entryNext .alwaysNotTaken e taken = e ∧ entryNext .alwaysTaken e taken = e ∧
    predictFrom .oneBit e = decide (e = 1) ∧ (e.val ≤ 1 → (entryNext .oneBit e taken).val = if taken then 1 else 0) ∧
    predictFrom .twoBit e = decide (2 ≤ e.val) ∧
    (entryNext .twoBit e taken).val = (if taken then min 3 (e.val + 1) else e.val - 1) ∧
    predictFrom .twoBitAlt e = decide (2 ≤ e.val) ∧
    (entryNext .twoBitAlt e taken).val =
      (if taken then (if e.val = 0 then 1 else 3) else (if e.val = 3 then 2 else 0))

/-! ### Fatal errors (60_exceptions.md) -/

/-- R302: a cycle that raises does not count, commits nothing and emits nothing; the pipeline registers keep their values, and the
machine has no further step. -/
def Obligations.FatalCycleEndsAtOnce : Prop :=
  ∀ (s t : State) (k : FatalKind), step s = .next t → t.status = .fatal k →
    t.ctr.steps = s.ctr.steps ∧ t.ctr.cycleCount = s.ctr.cycleCount ∧ t.ctr.instCount = s.ctr.instCount ∧
    t.ctr.branchCount = s.ctr.branchCount ∧ t.ctr.branchCorrect = s.ctr.branchCorrect ∧
    t.regs = s.regs ∧ t.out = s.out ∧ t.input = s.input ∧
    t.fCur = s.fCur ∧ t.dCur = s.dCur ∧ t.eCur = s.eCur ∧ t.mCur = s.mCur ∧ t.wCur = s.wCur ∧
    step t = .fault (.afterFatal k)

/-- R303 to R308, R310, R311: a step ends in a fatal error only for the causes the spec names, with the record it names. -/
def Obligations.EveryFatalErrorHasItsCause : Prop :=
  ∀ (s t : State) (k : FatalKind), step s = .next t → t.status = .fatal k →
    match k with
    | .decodeError a w => ∃ d why, s.dCur.slot = some d ∧ a = d.pc ∧ w = d.word ∧ decode s.cfg.shamt6 w = .reject why
    | .translationError .fetch kind v n =>
      s.fCur.bubble = false ∧ v = s.fCur.pc ∧ n = 4 ∧ translate s v 4 = .fail kind
    | .translationError .memory kind v n => ∃ x rd, s.mCur.slot = some x ∧ x.inst.op.access = some ⟨rd, n⟩ ∧ v = x.valE ∧
      translate s v n = .fail kind
    | .translationError .writeBack kind v n => kind = .unmapped ∧ n = 1 ∧ translate s v 1 = .fail .unmapped ∧
      ∃ x k, s.wCur.slot = some x ∧ x.inst.op = .ecall ∧ x.valC = 2 ∧ k < s.cfg.maxStrLen ∧ v = x.valE + BitVec.ofNat 64 k
    | .translationError .decode _ _ _ => False
    | .translationError .execute _ _ _ => False
    | .boundsError layer a n =>
      (s.fCur.bubble = false ∨ ∃ x, s.mCur.slot = some x ∧ x.inst.op.access ≠ none) ∧
      (layer = .memory → s.cfg.physMemSize < a + n) ∧
      (∀ i, layer = .cache i → ∃ c, s.cfg.levels[i - 1]? = some c ∧ c.lineSize < c.off a + n)
    | .unknownSyscall pc a7 => ∃ x, s.wCur.slot = some x ∧ x.inst.op = .ecall ∧ pc = x.pc ∧ a7 = x.valC ∧
      a7 ∉ ([0, 1, 2, 3, 4, 93] : List Word)
    | .frameExhausted _ => False
    | .divFault pc a b => ∃ e rd r1 r2, s.eCur.slot = some e ∧ (e.inst.op = .div rd r1 r2 ∨ e.inst.op = .rem rd r1 r2) ∧
      pc = e.pc ∧ a = e.op1 ∧ b = e.op2 ∧ s.cfg.divCorner = .fault ∧ (b = 0 ∨ a.toInt = -2 ^ 63 ∧ b.toInt = -1)
    | .jalrOddTarget pc target => ∃ e rd r1 imm, s.eCur.slot = some e ∧ e.inst.op = .jalr rd r1 imm ∧ pc = e.pc ∧
      target = e.op1 + imm.signExtend 64 ∧ target.toNat % 2 = 1 ∧ s.cfg.jalrOdd = .fault

/-- R313: errors come in stage order. A failing fetch raises whatever the older instructions would do; past Fetch, a word that does
not decode raises; past Decode, a corner of DIV or REM under `fault`; past Execute, an access that does not translate; past
MemoryAccess, a call that does not exist. -/
def Obligations.ErrorsComeInStageOrder : Prop :=
  ∀ s : State, s.Runs →
    let decodes := ∀ d, s.dCur.slot = some d → ∃ i, decode s.cfg.shamt6 d.word = .ok i
    let quietE := ∀ e, s.eCur.slot = some e → e.inst.op.isJalr = false ∧ e.inst.op.opClass ≠ .div64
    (∀ kind, s.fCur.bubble = false → translate s s.fCur.pc 4 = .fail kind →
      ∃ t, step s = .next t ∧ t.status = .fatal (.translationError .fetch kind s.fCur.pc 4) ∧ t.storage = s.storage) ∧
    ((fetchStage { s with sig := Signals.idle }).status.isFatal = false →
      (∀ d why, s.dCur.slot = some d → decode s.cfg.shamt6 d.word = .reject why →
        ∃ t, step s = .next t ∧ t.status = .fatal (.decodeError d.pc d.word)) ∧
      (∀ e rd r1 r2, decodes → s.eCur.slot = some e → (e.inst.op = .div rd r1 r2 ∨ e.inst.op = .rem rd r1 r2) →
        s.cfg.divCorner = .fault → (e.op2 = 0 ∨ e.op1.toInt = -2 ^ 63 ∧ e.op2.toInt = -1) →
        ∃ t, step s = .next t ∧ t.status = .fatal (.divFault e.pc e.op1 e.op2)) ∧
      (∀ e rd r1 imm, decodes → s.eCur.slot = some e → e.inst.op = .jalr rd r1 imm → s.cfg.jalrOdd = .fault →
        (e.op1 + imm.signExtend 64).toNat % 2 = 1 →
        ∃ t, step s = .next t ∧ t.status = .fatal (.jalrOddTarget e.pc (e.op1 + imm.signExtend 64))) ∧
      (∀ x op kind, decodes → quietE → s.mCur.slot = some x → x.inst.op.access = some op →
        translate s x.valE op.bytes = .fail kind →
        ∃ t, step s = .next t ∧ t.status = .fatal (.translationError .memory kind x.valE op.bytes)) ∧
      (∀ x, decodes → quietE → (∀ y, s.mCur.slot = some y → y.inst.op.access = none) → s.wCur.slot = some x →
        x.inst.op = .ecall → x.valC ∉ ([0, 1, 2, 3, 4, 93] : List Word) →
        ∃ t, step s = .next t ∧ t.status = .fatal (.unknownSyscall x.pc x.valC)))

/-! ### Control flow in the pipeline -/

/-- R411: what a blocked Fetch writes, and what sets and clears the block. -/
def Obligations.FetchBlock : Prop :=
  (∀ s : State, s.fCur.bubble = true →
    fetchStage s = { s with dNxt := Snap.bubble, fNxt := { pc := s.fCur.pc, bubble := true, stall := false } }) ∧
  (∀ s t : State, s.Ordered → step s = .next t → t.status.isFatal = false →
    (s.fCur.bubble = false → t.fCur.bubble = true →
      (∃ d, t.dCur.slot = some d ∧ opcodeOf d.word = 0b1100111#7) ∨
      (∃ d, s.dCur.slot = some d ∧ decode s.cfg.shamt6 d.word = .ok .ecall)) ∧
    (s.fCur.bubble = true → t.fCur.bubble = false →
      (∃ e, s.eCur.slot = some e ∧ (e.inst.op.isJalr = true ∨ e.inst.op.isBranch = true)) ∨
      (∃ x, s.wCur.slot = some x ∧ x.inst.op = .ecall ∧ t.fCur.pc = x.pc + 4)))

/-- R412, R95, R97: an unblocked Fetch reads the little-endian word of the four bytes the address shows, changes no byte of the
view, and chooses the next address from the opcode. -/
def Obligations.FetchReadsTheView : Prop :=
  ∀ (s : State) (p : Nat), s.cfg.admitted = true → s.Sound → s.storage.Coherent s.cfg → s.cfg.linesDivide → s.cfg.prefetchSafe →
    s.fCur.bubble = false → translate s s.fCur.pc 4 = .ok p → s.cfg.inLine p 4 → p + 4 ≤ s.cfg.physMemSize →
    let w : InstrWord := BitVec.ofNat 32 (leNat [s.view p, s.view (p + 1), s.view (p + 2), s.view (p + 3)])
    let guess := opcodeOf w = 0b1100011#7 ∧ predict s s.fCur.pc = true
    let next := if guess then s.fCur.pc + (immSBOf w).signExtend 64
      else if opcodeOf w = 0b1101111#7 then s.fCur.pc + (immUJOf w).signExtend 64 else s.fCur.pc + 4
    let t := fetchStage s
    t.status = s.status ∧
    t.dNxt = { slot := some { pc := s.fCur.pc, word := w, predTaken := decide guess, predNext := next }, stall := false } ∧
    t.fNxt = { pc := next, bubble := decide (opcodeOf w = 0b1100111#7), stall := false } ∧
    (∀ q, t.view q = s.view q)

/-- R420 to R422: what Decode writes. -/
def Obligations.DecodeReadsItsOperands : Prop :=
  ∀ s : State,
    (s.dCur.slot = none → decodeStage s = .next { s with eNxt := Snap.bubble }) ∧
    (∀ d why, s.dCur.slot = some d → decode s.cfg.shamt6 d.word = .reject why →
      decodeStage s = .next { s with status := .fatal (.decodeError d.pc d.word) }) ∧
    (∀ d i, s.dCur.slot = some d → decode s.cfg.shamt6 d.word = .ok i →
      let op := fun o : Option Reg => match o with
        | some r => readReg s r
        | none => 0
      ∃ t, decodeStage s = .next t ∧
        t.eNxt = { slot := some { pc := d.pc, inst := { word := d.word, addr := d.pc, op := i }, op1 := op i.srcs.1, op2 := op i.srcs.2,
                                  predTaken := d.predTaken, predNext := d.predNext }, stall := false } ∧
        (i = .ecall → t.dNxt = Snap.bubble ∧ t.fNxt = { pc := d.pc + 4, bubble := true, stall := false }) ∧
        (i.isJalr = true → t.dNxt = s.dNxt ∧ t.fNxt = { s.fNxt with bubble := true }) ∧
        (i ≠ .ecall → i.isJalr = false → t.dNxt = s.dNxt ∧ t.fNxt = s.fNxt) ∧
        t = { s with eNxt := t.eNxt, dNxt := t.dNxt, fNxt := t.fNxt, sig := t.sig })

/-- R423, R425, R413: a misprediction redirects fetch to the resolved address and squashes the two younger slots; a right prediction
does neither: `F` and `D` become what Fetch, and Decode by R421 and R422, wrote, and the instruction decoded goes on to `E`. -/
def Obligations.MispredictionFlushes : Prop :=
  ∀ (s t : State) (e : ESlot) (taken : Bool) (actual : Word), s.Ordered → step s = .next t → t.status.isFatal = false →
    s.eCur.slot = some e → branchOutcome e.pc e.op1 e.op2 e.inst.op = some (taken, actual) →
    t.mCur = { slot := some { pc := e.pc, inst := e.inst, valE := 0, valC := 0, predOK := decide (taken = e.predTaken) }, stall := false } ∧
    (taken ≠ e.predTaken →
      t.fCur = { pc := actual, bubble := false, stall := false } ∧ t.dCur.slot = none ∧ t.eCur.slot = none ∧
      t.ctr.controlHazards = s.ctr.controlHazards + 1) ∧
    (taken = e.predTaken → t.ctr.controlHazards = s.ctr.controlHazards ∧ t.eCur.slot.isSome = s.dCur.slot.isSome ∧
      ∃ w, decodeStage (fetchStage { s with sig := Signals.idle }) = .next w ∧ t.fCur = w.fNxt ∧ t.dCur = w.dNxt)

/-- R208, R424: JALR always redirects, to `rs1 + imm` (bit 0 cleared under `clear`), squashes, links, and counts a control hazard. -/
def Obligations.JalrRedirects : Prop :=
  ∀ (s t : State) (e : ESlot) (rd r1 : Reg) (imm : BitVec 12), s.Ordered → step s = .next t → t.status.isFatal = false →
    s.eCur.slot = some e → e.inst.op = .jalr rd r1 imm →
    let target := e.op1 + imm.signExtend 64
    t.fCur = { pc := if target.toNat % 2 = 1 then target - 1 else target, bubble := false, stall := false } ∧
    (target.toNat % 2 = 1 → s.cfg.jalrOdd = .clear) ∧
    t.dCur.slot = none ∧ t.eCur.slot = none ∧ t.ctr.controlHazards = s.ctr.controlHazards + 1 ∧
    t.mCur = { slot := some { pc := e.pc, inst := e.inst, valE := e.pc + 4, valC := 0, predOK := true }, stall := false }

/-- R421, R428: an ECALL that goes on from Decode blocks fetch at the next address with nothing behind it; its WriteBack releases
fetch there unless the call ended the run. -/
def Obligations.EcallDrainsAndReleases : Prop :=
  ∀ s t : State, s.Ordered → step s = .next t → t.status.isFatal = false →
    (∀ d, s.dCur.slot = some d → decode s.cfg.shamt6 d.word = .ok .ecall → t.eCur.slot ≠ none →
      t.dCur.slot = none ∧ t.fCur = { pc := d.pc + 4, bubble := true, stall := false }) ∧
    (∀ x, s.wCur.slot = some x → x.inst.op = .ecall →
      (x.valC = 93 ∧ t.status = .exited ∧ t.fCur.bubble = true) ∨
      (x.valC ≠ 93 ∧ t.status = .running ∧ t.fCur = { pc := x.pc + 4, bubble := false, stall := false } ∧ t.dCur.slot = none))

/-- R432: an instruction that reads the register of the load before it is held exactly one cycle, and then takes the loaded value. -/
def Obligations.LoadUseHoldsOneCycle : Prop :=
  ∀ (s t : State) (e : ESlot) (d : DSlot) (i : Instr) (r : Reg), s.Ordered → step s = .next t → t.status.isFatal = false →
    s.eCur.slot = some e → e.inst.op.isLoad = true → e.inst.op.dst = some r → r ≠ 0 →
    s.dCur.slot = some d → decode s.cfg.shamt6 d.word = .ok i → (i.srcs.1 = some r ∨ i.srcs.2 = some r) →
    t.fCur = s.fCur ∧ t.dCur = s.dCur ∧ t.eCur.slot = none ∧ t.ctr.loadUseStalls = s.ctr.loadUseStalls + 1 ∧
    (∀ u, step t = .next u → u.status.isFatal = false →
      u.ctr.loadUseStalls = t.ctr.loadUseStalls ∧
      ∃ f x, u.eCur.slot = some f ∧ f.inst.op = i ∧ u.wCur.slot = some x ∧ x.inst = e.inst ∧
        (i.srcs.1 = some r → f.op1 = x.valE) ∧ (i.srcs.2 = some r → f.op2 = x.valE))

/-- R430, R431: the instruction decoded in a cycle, if it goes on to Execute, carries for each source the value of the youngest
older writer in flight, else the register's. -/
def Obligations.ForwardingGivesTheNewestValue : Prop :=
  ∀ (s t : State) (d : DSlot) (i : Instr) (e : ESlot), step s = .next t → t.status.isFatal = false →
    s.dCur.slot = some d → decode s.cfg.shamt6 d.word = .ok i → t.eCur.slot = some e →
    e.inst = { word := d.word, addr := d.pc, op := i } ∧ e.pc = d.pc ∧
    (∀ r, i.srcs.1 = some r → e.op1 = newestValue s t r) ∧ (∀ r, i.srcs.2 = some r → e.op2 = newestValue s t r) ∧
    (i.srcs.1 = none → e.op1 = 0) ∧ (i.srcs.2 = none → e.op2 = 0)

/-! ### Timing -/

/-- R440, R444, R450: a cycle that does not raise counts one step and the largest cost its active stages report, at least 1. -/
def Obligations.CycleCost : Prop :=
  ∀ s t : State, step s = .next t → t.status.isFatal = false →
    t.ctr.steps = s.ctr.steps + 1 ∧
    t.ctr.cycleCount = s.ctr.cycleCount +
      max 1 (max (fetchCost s) (max (activeCost s.dCur.slot) (max (executeCost s) (max (memoryCost s) (activeCost s.wCur.slot)))))

/-- R445: timing never changes results. Two machines that differ in costs, latencies, `ChargeFetchLatency` and `cycleCount` alone
take steps that differ in those alone. -/
def Obligations.TimingNeverChangesResults : Prop :=
  ∀ s t : State, s.untimed = t.untimed →
    (∀ s', step s = .next s' → ∃ t', step t = .next t' ∧ s'.untimed = t'.untimed) ∧
    (∀ f, step s = .fault f → step t = .fault f) ∧ (∀ r, step s = .refused r → step t = .refused r)

/-! ### From the pipeline to the instruction -/

/-- The parts of an instruction's life at the four stages, performed one after the other, leave what its whole life between two
cycles leaves, in registers, storage, predictor, host state, counts and status. -/
def Obligations.StagesMakeTheWholeLife : Prop :=
  ∀ (i : Instr) (s t : State) (d : DSlot), s.Ready → d.pc = s.fCur.pc →
    d.predTaken = (nextFetch s s.fCur.pc i.fetchKind).predTaken →
    (thenStage (exec i (atPhase .decode (issue i d s))) fun s1 =>
      thenStage (exec i (atPhase .execute { s1 with eCur := s1.eNxt })) fun s2 =>
      thenStage (exec i (atPhase .memory { s2 with mCur := s2.mNxt })) fun s3 =>
      exec i (atPhase .writeBack { s3 with wCur := s3.wNxt })) = .next t →
    ∃ u, exec i s = .next u ∧ t.regs = u.regs ∧ t.storage = u.storage ∧ t.bht = u.bht ∧ t.out = u.out ∧ t.input = u.input ∧
      t.inputPos = u.inputPos ∧ t.ctr = u.ctr ∧ t.status = u.status ∧ t.pt = u.pt ∧ t.free = u.free ∧ t.cfg = u.cfg

/-- R413, R426, R427, R450: in a step that does not raise, without a redirect, a hold or a release `F` and `D` become what Fetch and
Decode wrote; the instruction in `E` goes to `M`; the one in `M` goes to `W`, a load with the value its access answered, extended, and
the storage is left by that access; the one in `W` retires: its destination holds `W.val_e`, and it counts, a branch as predicted right
or wrong too; and a bubble in `W` retires nothing. -/
def Obligations.InstructionsAdvanceAndRetire : Prop :=
  ∀ s t : State, s.Ordered → step s = .next t → t.status.isFatal = false →
    let f := fetchStage { s with sig := Signals.idle }
    ((∀ e, s.eCur.slot = some e → e.inst.op.isJalr = false ∧
        ∀ taken actual, branchOutcome e.pc e.op1 e.op2 e.inst.op = some (taken, actual) → taken = e.predTaken) →
      t.ctr.loadUseStalls = s.ctr.loadUseStalls → (∀ x, s.wCur.slot = some x → x.inst.op ≠ .ecall) →
      t.eCur.slot.isSome = s.dCur.slot.isSome ∧ ∃ w, decodeStage f = .next w ∧ t.fCur = w.fNxt ∧ t.dCur = w.dNxt) ∧
    (s.eCur.slot = none → t.mCur.slot = none) ∧
    (∀ e, s.eCur.slot = some e → ∃ x, t.mCur.slot = some x ∧ x.pc = e.pc ∧ x.inst = e.inst) ∧
    (s.mCur.slot = none → t.wCur.slot = none ∧ t.storage = f.storage) ∧
    (∀ x, s.mCur.slot = some x → x.inst.op.access = none → t.wCur.slot = some x ∧ t.storage = f.storage) ∧
    (∀ x op, s.mCur.slot = some x → x.inst.op.access = some op →
      ∃ u v time, access .memory { s with storage := f.storage } x.valE op.bytes op.isRead x.valC = .ok u v time ∧
        t.storage = u.storage ∧
        t.wCur.slot = some { x with valE :=
          if op.isRead then BitVec.ofInt 64 (if x.inst.op.loadsUnsigned then (v.toNat : Int) else signedOf op.bytes v.toNat)
          else x.valE }) ∧
    (s.wCur.slot = none → t.regs = s.regs ∧ t.ctr.instCount = s.ctr.instCount ∧ t.ctr.branchCount = s.ctr.branchCount ∧
      t.ctr.branchCorrect = s.ctr.branchCorrect) ∧
    (∀ x, s.wCur.slot = some x →
      (∀ r, x.inst.op.dst = some r → r ≠ 0 → readReg t r = x.valE) ∧ t.ctr.instCount = s.ctr.instCount + 1 ∧
      t.ctr.branchCount = s.ctr.branchCount + (if x.inst.op.isBranch then 1 else 0) ∧
      t.ctr.branchCorrect = s.ctr.branchCorrect + (if x.inst.op.isBranch && x.predOK then 1 else 0))

/-! ### Registers -/

/-- R21: `x0` reads 0, a write to it is discarded, every other register holds what was last written, and a producer with
destination `x0` forwards nothing. -/
def Obligations.RegisterZeroDiscards : Prop :=
  ∀ (s : State) (v : Word), readReg s 0 = 0 ∧ writeReg 0 v s = s ∧ forward (some 0) v s = s ∧
    (∀ r q : Reg, readReg (writeReg r v s) q = if q = r ∧ r ≠ 0 then v else readReg s q) ∧
    (∀ r : Reg, ({ writeReg r v s with regs := s.regs } : State) = s)

/-! ### Integer instructions (40_integer.md) -/

/-- R152, R153: LUI and AUIPC complete with their result in `rd` and nothing else changed but the address and the count. -/
def Obligations.UpperImmediateResults : Prop :=
  ∀ (s : State) (rd : Reg) (imm : BitVec 20), s.Ready →
    let pc := s.fCur.pc
    let u : Word := BitVec.ofInt 64 ((imm ++ 0#12).toInt)
    exec (.lui rd imm) s = .next (s.retireWith rd u (pc + 4)) ∧
    exec (.auipc rd imm) s = .next (s.retireWith rd (pc + u) (pc + 4))

/-- R154 to R162: the OP-IMM instructions. -/
def Obligations.OpImmResults : Prop :=
  ∀ (s : State) (rd rs1 : Reg) (imm : BitVec 12) (sh : BitVec 6), s.Ready →
    let a := readReg s rs1
    let c : Word := BitVec.ofInt 64 imm.toInt
    let done := fun v : Word => Host.Outcome.next (φ := Fault) (ρ := Refusal) (s.retireWith rd v (s.fCur.pc + 4))
    exec (.addi rd rs1 imm) s = done (a + c) ∧
    exec (.slti rd rs1 imm) s = done (if a.slt c then 1 else 0) ∧
    exec (.sltiu rd rs1 imm) s = done (if a.ult c then 1 else 0) ∧
    exec (.xori rd rs1 imm) s = done (a ^^^ c) ∧ exec (.ori rd rs1 imm) s = done (a ||| c) ∧
    exec (.andi rd rs1 imm) s = done (a &&& c) ∧
    exec (.slli rd rs1 sh) s = done (BitVec.ofNat 64 (a.toNat * 2 ^ sh.toNat)) ∧
    exec (.srli rd rs1 sh) s = done (BitVec.ofNat 64 (a.toNat / 2 ^ sh.toNat)) ∧
    exec (.srai rd rs1 sh) s = done (BitVec.ofInt 64 (a.toInt / 2 ^ sh.toNat))

/-- R163 to R172: the OP instructions; a shift uses the low six bits of its amount. -/
def Obligations.OpResults : Prop :=
  ∀ (s : State) (rd rs1 rs2 : Reg), s.Ready →
    let a := readReg s rs1
    let b := readReg s rs2
    let done := fun v : Word => Host.Outcome.next (φ := Fault) (ρ := Refusal) (s.retireWith rd v (s.fCur.pc + 4))
    exec (.add rd rs1 rs2) s = done (a + b) ∧ exec (.sub rd rs1 rs2) s = done (a - b) ∧
    exec (.sll rd rs1 rs2) s = done (BitVec.ofNat 64 (a.toNat * 2 ^ (b.toNat % 64))) ∧
    exec (.slt rd rs1 rs2) s = done (if a.slt b then 1 else 0) ∧
    exec (.sltu rd rs1 rs2) s = done (if a.ult b then 1 else 0) ∧
    exec (.xor rd rs1 rs2) s = done (a ^^^ b) ∧
    exec (.srl rd rs1 rs2) s = done (BitVec.ofNat 64 (a.toNat / 2 ^ (b.toNat % 64))) ∧
    exec (.sra rd rs1 rs2) s = done (BitVec.ofInt 64 (a.toInt / 2 ^ (b.toNat % 64))) ∧
    exec (.or rd rs1 rs2) s = done (a ||| b) ∧ exec (.and rd rs1 rs2) s = done (a &&& b)

/-- R173 to R181: the 32-bit instructions: 32-bit arithmetic, its result sign-extended; a shift uses the low five bits. -/
def Obligations.WordResults : Prop :=
  ∀ (s : State) (rd rs1 rs2 : Reg) (imm : BitVec 12) (sh : BitVec 5), s.Ready →
    let a := (readReg s rs1).extractLsb' 0 32
    let b := (readReg s rs2).extractLsb' 0 32
    let k := (readReg s rs2).toNat % 32
    let done := fun v : BitVec 32 =>
      Host.Outcome.next (φ := Fault) (ρ := Refusal) (s.retireWith rd (BitVec.ofInt 64 v.toInt) (s.fCur.pc + 4))
    exec (.addiw rd rs1 imm) s = done (a + imm.signExtend 32) ∧
    exec (.slliw rd rs1 sh) s = done (BitVec.ofNat 32 (a.toNat * 2 ^ sh.toNat)) ∧
    exec (.srliw rd rs1 sh) s = done (BitVec.ofNat 32 (a.toNat / 2 ^ sh.toNat)) ∧
    exec (.sraiw rd rs1 sh) s = done (BitVec.ofInt 32 (a.toInt / 2 ^ sh.toNat)) ∧
    exec (.addw rd rs1 rs2) s = done (a + b) ∧ exec (.subw rd rs1 rs2) s = done (a - b) ∧
    exec (.sllw rd rs1 rs2) s = done (BitVec.ofNat 32 (a.toNat * 2 ^ k)) ∧
    exec (.srlw rd rs1 rs2) s = done (BitVec.ofNat 32 (a.toNat / 2 ^ k)) ∧
    exec (.sraw rd rs1 rs2) s = done (BitVec.ofInt 32 (a.toInt / 2 ^ k))

/-- R182 to R185: multiply, and divide and remainder outside the corners: exact integers, narrowed. -/
def Obligations.MultiplyDivideResults : Prop :=
  ∀ (s : State) (rd rs1 rs2 : Reg), s.Ready →
    let a := (readReg s rs1).toInt
    let b := (readReg s rs2).toInt
    let done := fun v : Int =>
      Host.Outcome.next (φ := Fault) (ρ := Refusal) (s.retireWith rd (BitVec.ofInt 64 v) (s.fCur.pc + 4))
    exec (.mul rd rs1 rs2) s = done (a * b) ∧
    exec (.mulh rd rs1 rs2) s = done (a * b / 2 ^ 64) ∧
    (b ≠ 0 → ¬ (a = -2 ^ 63 ∧ b = -1) →
      exec (.div rd rs1 rs2) s = done (a.tdiv b) ∧ exec (.rem rd rs1 rs2) s = done (a.tmod b))

/-- R187, R310: division by zero and signed overflow, under both values of `DivCorner`. -/
def Obligations.DivisionCorners : Prop :=
  ∀ (s : State) (rd rs1 rs2 : Reg), s.Ready →
    let a := readReg s rs1
    let b := readReg s rs2
    let done := fun v : Word => Host.Outcome.next (φ := Fault) (ρ := Refusal) (s.retireWith rd v (s.fCur.pc + 4))
    (s.cfg.divCorner = .fault → (b = 0 ∨ a.toInt = -2 ^ 63 ∧ b.toInt = -1) →
      exec (.div rd rs1 rs2) s = .next { s with status := .fatal (.divFault s.fCur.pc a b) } ∧
      exec (.rem rd rs1 rs2) s = .next { s with status := .fatal (.divFault s.fCur.pc a b) }) ∧
    (s.cfg.divCorner = .riscv →
      (b = 0 → exec (.div rd rs1 rs2) s = done 0xFFFFFFFFFFFFFFFF ∧ exec (.rem rd rs1 rs2) s = done a) ∧
      (a.toInt = -2 ^ 63 → b.toInt = -1 →
        exec (.div rd rs1 rs2) s = done 0x8000000000000000 ∧ exec (.rem rd rs1 rs2) s = done 0))

/-- R150, R151, R200: the frame of every instruction that is no load, store or ECALL. Registers but its destination, storage, page
table, pool, host state, pipeline registers and, unless it is a branch, the predictor and its counters stay as they are. -/
def Obligations.RegisterInstructionFrame : Prop :=
  ∀ (i : Instr) (s t : State), s.Ready → i.access = none → i ≠ .ecall → exec i s = .next t → t.status.isFatal = false →
    (∀ r, i.dst ≠ some r → readReg t r = readReg s r) ∧ (∀ p, t.view p = s.view p) ∧ t.storage = s.storage ∧
    t.pt = s.pt ∧ t.free = s.free ∧ t.cfg = s.cfg ∧ t.out = s.out ∧ t.input = s.input ∧ t.inputPos = s.inputPos ∧
    t.status = s.status ∧ t.fCur.bubble = s.fCur.bubble ∧ t.fNxt = s.fNxt ∧ t.dCur = s.dCur ∧ t.dNxt = s.dNxt ∧ t.eCur = s.eCur ∧
    t.eNxt = s.eNxt ∧ t.mCur = s.mCur ∧ t.mNxt = s.mNxt ∧ t.wCur = s.wCur ∧ t.wNxt = s.wNxt ∧
    t.ctr.instCount = s.ctr.instCount + 1 ∧ t.ctr.steps = s.ctr.steps ∧ t.ctr.cycleCount = s.ctr.cycleCount ∧
    t.ctr.loadUseStalls = s.ctr.loadUseStalls ∧
    (i.isBranch = false → t.bht = s.bht ∧ t.ctr.branchCount = s.ctr.branchCount ∧ t.ctr.branchCorrect = s.ctr.branchCorrect) ∧
    (i.isBranch = false → i.isJalr = false → t.ctr.controlHazards = s.ctr.controlHazards)

/-! ### Control transfer (41_control.md) -/

/-- R200 to R206: a conditional branch has an outcome by its comparison and goes where it says, counts as retired and as predicted
right or wrong, trains its entry and writes no register. -/
def Obligations.BranchResults : Prop :=
  ∀ (i : Instr) (s : State), s.Ready → i.isBranch = true →
    ∃ (taken : Bool) (next : Word),
      branchOutcome s.fCur.pc (readSrc s i.srcs.1) (readSrc s i.srcs.2) i = some (taken, next) ∧
      (taken = false → next = s.fCur.pc + 4) ∧
      let k := s.fCur.pc.toNat / 4 % s.cfg.tableSize
      let right := decide (taken = predict s s.fCur.pc)
      exec i s = .next { s with
        fCur := { s.fCur with pc := next }
        bht := s.bht.set k (entryNext s.cfg.predStrategy (s.bht.getD k s.cfg.predInit) taken)
        ctr := { s.ctr with
          instCount := s.ctr.instCount + 1
          branchCount := s.ctr.branchCount + 1
          branchCorrect := s.ctr.branchCorrect + (if right then 1 else 0)
          controlHazards := s.ctr.controlHazards + (if right then 0 else 1) } }

/-- R207, R208, R311: JAL and JALR link and jump; an odd JALR target raises under `fault` and loses bit 0 under `clear`. -/
def Obligations.JumpResults : Prop :=
  ∀ (s : State) (rd rs1 : Reg) (off : BitVec 21) (imm : BitVec 12), s.Ready →
    let pc := s.fCur.pc
    let target := readReg s rs1 + imm.signExtend 64
    let hazard := fun t : State => { t with ctr := { t.ctr with controlHazards := t.ctr.controlHazards + 1 } }
    exec (.jal rd off) s = .next (s.retireWith rd (pc + 4) (pc + off.signExtend 64)) ∧
    (target.toNat % 2 = 0 → exec (.jalr rd rs1 imm) s = .next (hazard (s.retireWith rd (pc + 4) target))) ∧
    (target.toNat % 2 = 1 → s.cfg.jalrOdd = .clear →
      exec (.jalr rd rs1 imm) s = .next (hazard (s.retireWith rd (pc + 4) (target - 1)))) ∧
    (target.toNat % 2 = 1 → s.cfg.jalrOdd = .fault →
      exec (.jalr rd rs1 imm) s = .next { s with status := .fatal (.jalrOddTarget pc target) })

/-! ### Loads and stores (42_load_store.md) -/

/-- One load of `n` bytes: it completes, leaves in `rd` the little-endian number of the bytes its address shows, extended, and
changes no byte of the view, nothing but `rd`, the address, the count and the caches. -/
def LoadsLike (mk : Reg → Reg → BitVec 12 → Instr) (n : Nat) (signed : Bool) : Prop :=
  ∀ (s : State) (rd rs1 : Reg) (imm : BitVec 12) (p : Nat), s.Ready → s.cfg.admitted = true → s.Sound →
    s.storage.Coherent s.cfg → s.cfg.linesDivide → s.cfg.prefetchSafe →
    translate s (readReg s rs1 + imm.signExtend 64) n = .ok p → s.cfg.inLine p n → p + n ≤ s.cfg.physMemSize →
    let v := leNat ((List.range n).map fun k => s.view (p + k))
    ∃ t, exec (mk rd rs1 imm) s = .next t ∧ (∀ q, t.view q = s.view q) ∧
      t = ({ s with storage := t.storage } : State).retireWith rd
        (BitVec.ofInt 64 (if signed then signedOf n v else (v : Int))) (s.fCur.pc + 4)

/-- R231 to R237: the seven loads, by the flat memory a program sees. -/
def Obligations.LoadResults : Prop :=
  LoadsLike .lb 1 true ∧ LoadsLike .lh 2 true ∧ LoadsLike .lw 4 true ∧ LoadsLike .ld 8 true ∧
  LoadsLike .lbu 1 false ∧ LoadsLike .lhu 2 false ∧ LoadsLike .lwu 4 false

/-- One store of `n` bytes: it completes, and of the view it changes exactly the `n` bytes at the address it computes, to the low
bytes of `rs2`, the least significant first; of the rest only the address, the count and the caches. -/
def StoresLike (mk : Reg → Reg → BitVec 12 → Instr) (n : Nat) : Prop :=
  ∀ (s : State) (rs1 rs2 : Reg) (imm : BitVec 12) (p : Nat), s.Ready → s.cfg.admitted = true → s.Sound →
    s.storage.Coherent s.cfg → s.cfg.linesDivide → s.cfg.prefetchSafe →
    translate s (readReg s rs1 + imm.signExtend 64) n = .ok p → s.cfg.inLine p n → p + n ≤ s.cfg.physMemSize →
    ∃ t, exec (mk rs1 rs2 imm) s = .next t ∧
      (∀ q, t.view q = if p ≤ q ∧ q < p + n then (readReg s rs2).extractLsb' (8 * (q - p)) 8 else s.view q) ∧
      t = ({ s with storage := t.storage } : State).retire (s.fCur.pc + 4)

/-- R238 to R241: the four stores, by the flat memory a program sees. -/
def Obligations.StoreResults : Prop :=
  StoresLike .sb 1 ∧ StoresLike .sh 2 ∧ StoresLike .sw 4 ∧ StoresLike .sd 8

/-- R304: a load or store whose address does not translate raises, and no byte changes: nothing changes but the status. -/
def Obligations.UntranslatedAccessRaises : Prop :=
  ∀ (i : Instr) (s : State) (op : MemOp) (kind : TranslationKind), s.Ready → i.access = some op →
    let addr := fun imm : BitVec 12 => readSrc s i.srcs.1 + imm.signExtend 64
    ∀ imm : BitVec 12, (∃ rd rs1, i = .lb rd rs1 imm ∨ i = .lh rd rs1 imm ∨ i = .lw rd rs1 imm ∨ i = .ld rd rs1 imm ∨
        i = .lbu rd rs1 imm ∨ i = .lhu rd rs1 imm ∨ i = .lwu rd rs1 imm ∨
        i = .sb rs1 rd imm ∨ i = .sh rs1 rd imm ∨ i = .sw rs1 rd imm ∨ i = .sd rs1 rd imm) →
    translate s (addr imm) op.bytes = .fail kind →
    exec i s = .next { s with status := .fatal (.translationError .memory kind (addr imm) op.bytes) }

/-- R62 to R64: translation: alignment first, then the page of the first byte. -/
def Obligations.TranslationRule : Prop :=
  ∀ (s : State) (v : Word) (n : Nat), n = 1 ∨ n = 2 ∨ n = 4 ∨ n = 8 →
    let bad := v.toNat % n ≠ 0 ∧ (n = 8 → s.cfg.misaligned8 = .fault)
    let vpn := v.toNat / s.cfg.pageSize
    (bad → translate s v n = .fail .misaligned) ∧
    (¬ bad → (∀ e, lookupPage s.pt vpn = some e → e.valid = false) → translate s v n = .fail .unmapped) ∧
    (¬ bad → ∀ e, lookupPage s.pt vpn = some e → e.valid = true →
      e.ppn.toNat * s.cfg.pageSize + s.cfg.pageSize ≤ 2 ^ 64 → 0 < s.cfg.pageSize →
      translate s v n = .ok (e.ppn.toNat * s.cfg.pageSize + v.toNat % s.cfg.pageSize))

/-- R91: the value of bytes is their little-endian number, and the bytes of a value give back its low part. -/
def Obligations.LittleEndian : Prop :=
  (∀ bs : List Byte, bs.length ≤ 8 → (valueOf bs).toNat = leNat bs) ∧
  (∀ (n : Nat) (v : Word), n ≤ 8 → (bytesOf n v).length = n ∧ (valueOf (bytesOf n v)).toNat = v.toNat % 2 ^ (8 * n)) ∧
  (∀ w : InstrWord, wordOfBytes (w.extractLsb' 0 8) (w.extractLsb' 8 8) (w.extractLsb' 16 8) (w.extractLsb' 24 8) = w) ∧
  (∀ b0 b1 b2 b3 : Byte, fetchedWord (valueOf [b0, b1, b2, b3]) = wordOfBytes b0 b1 b2 b3)

/-! ### System calls (43_system.md) -/

/-- R261 to R264, R267 to R270: ECALL by the whole value of `a7`. An exit and an unknown call say so in the status; a read takes the
next value of the stream, whatever it is. That a read past the listed values takes a free value, and that the address moves on after an
exit too, is the model's choice (log entries 3 and 24). -/
def Obligations.EcallFunctions : Prop :=
  ∀ s : State, s.Ready →
    let a0 := readReg s 10
    let a7 := readReg s 17
    let next := s.fCur.pc + 4
    (a7 = 0 → exec .ecall s = .next (({ s with out := s.out ++ [.printInt a0] } : State).retire next)) ∧
    (a7 = 1 → exec .ecall s = .next (({ s with out := s.out ++ [.printChar (a0.extractLsb' 0 8)] } : State).retire next)) ∧
    (a7 = 3 ∨ a7 = 4 → ∃ v, (∀ x rest, s.input = x :: rest → v = x) ∧ (s.input = [] → v = Config.freeInput s.inputPos) ∧
      exec .ecall s =
        .next (({ s with input := s.input.drop 1, inputPos := s.inputPos + 1 } : State).retireWith 10 v next)) ∧
    (a7 = 93 → exec .ecall s = .next (({ s with out := s.out ++ [.exit a0], status := .exited } : State).retire next)) ∧
    (a7 ∉ ([0, 1, 2, 3, 4, 93] : List Word) →
      exec .ecall s = .next { s with status := .fatal (.unknownSyscall s.fCur.pc a7) })

/-- R265, R266, R306: the string call prints the bytes up to the first NUL, or the first `MaxStrLen` bytes as truncated, without a
storage request, or raises at the first unmapped byte and prints nothing. -/
def Obligations.EcallPrintsString : Prop :=
  ∀ s : State, s.Ready → readReg s 17 = 2 →
    let at_ := fun k : Nat => readReg s 10 + BitVec.ofNat 64 k
    (∀ bytes : List Byte, bytes.length < s.cfg.maxStrLen →
      (∀ k (h : k < bytes.length), readByte s (at_ k) = some bytes[k] ∧ bytes[k] ≠ 0) → readByte s (at_ bytes.length) = some 0 →
      exec .ecall s = .next (({ s with out := s.out ++ [.printStr bytes false] } : State).retire (s.fCur.pc + 4))) ∧
    (∀ bytes : List Byte, bytes.length = s.cfg.maxStrLen →
      (∀ k (h : k < bytes.length), readByte s (at_ k) = some bytes[k] ∧ bytes[k] ≠ 0) →
      exec .ecall s = .next (({ s with out := s.out ++ [.printStr bytes true] } : State).retire (s.fCur.pc + 4))) ∧
    (∀ n, n < s.cfg.maxStrLen → (∀ k, k < n → ∃ b, readByte s (at_ k) = some b ∧ b ≠ 0) → readByte s (at_ n) = none →
      exec .ecall s = .next { s with status := .fatal (.translationError .writeBack .unmapped (at_ n) 1) })

/-! ### The storage chain (20_memory.md) -/

/-- R97 (1) and (3), R100: a read at the top of the chain answers the bytes the view shows and changes no byte of it, whatever
fills, evictions, writebacks and prefetches it makes. -/
def Obligations.ReadsReturnTheView : Prop :=
  ∀ (cfg : Config) (st st' : Storage) (r : Req) (buf : List Byte) (hit : Bool) (time : Nat), cfg.admitted = true →
    st.Sound cfg → st.Coherent cfg → r.isRead = true → handleTop cfg r st = .ok st' buf hit time →
    buf = (List.range r.bytes).map (fun k => st.view cfg (r.addr + k)) ∧ (∀ p, st'.view cfg p = st.view cfg p) ∧
    st'.Coherent cfg

/-- R97 (2) and (3): a write at the top changes exactly its bytes of the view, to the values written. -/
def Obligations.WritesChangeTheirBytesOnly : Prop :=
  ∀ (cfg : Config) (st st' : Storage) (r : Req) (buf : List Byte) (hit : Bool) (time : Nat), cfg.admitted = true →
    st.Sound cfg → st.Coherent cfg → r.isRead = false → r.buf.length = r.bytes → handleTop cfg r st = .ok st' buf hit time →
    (∀ p, st'.view cfg p = if r.addr ≤ p ∧ p < r.addr + r.bytes then r.buf.getD (p - r.addr) Memory.blank else st.view cfg p) ∧
    st'.Coherent cfg

/-- R307: with line sizes that divide memory and no prefetch that can raise, a request of at least one byte inside one line of the
top layer and inside memory is served. -/
def Obligations.RequestsInsideMemorySucceed : Prop :=
  ∀ (cfg : Config) (st : Storage) (r : Req), cfg.admitted = true → st.Sound cfg → st.Coherent cfg → cfg.linesDivide →
    cfg.prefetchSafe → 0 < r.bytes → (r.isRead = false → r.buf.length = r.bytes) → cfg.inLine r.addr r.bytes →
    r.addr + r.bytes ≤ cfg.physMemSize →
    ∃ st' buf hit time, handleTop cfg r st = .ok st' buf hit time

/-- R71, R89: a request that crosses a line at a cache, or leaves memory at Memory, raises before anything changes. -/
def Obligations.BoundsErrorsComeFirst : Prop :=
  (∀ (cfg : Config) (c : LevelCfg) (cs : List LevelCfg) (i : Nat) (r : Req) (st : Storage), st.levels ≠ [] →
    c.lineSize < c.off r.addr + r.bytes → handle cfg i (c :: cs) r st = .bounds st (.cache i) r.addr r.bytes) ∧
  (∀ (cfg : Config) (i : Nat) (r : Req) (st : Storage), cfg.physMemSize < r.addr + r.bytes →
    handle cfg i [] r st = .bounds st .memory r.addr r.bytes)

/-- R76, R80, R81: the victim is the lowest invalid way; else the least recent of all ways, or of the unpromoted ways where the
policy is two-queue and there is one. -/
def Obligations.VictimRule : Prop :=
  ∀ (m : Method) (ways : List CacheLine), ways ≠ [] →
    let v := victim m ways
    let least := fun P : CacheLine → Prop => ∃ l, ways[v]? = some l ∧ P l ∧ ∀ l' ∈ ways, P l' → l.recency ≤ l'.recency
    ((∃ l ∈ ways, l.valid = false) →
      (∃ l, ways[v]? = some l ∧ l.valid = false) ∧ ∀ k l, k < v → ways[k]? = some l → l.valid = true) ∧
    ((∀ l ∈ ways, l.valid = true) →
      (m = .lru → least fun _ => True) ∧
      (m = .twoQueue → (∃ l ∈ ways, l.promoted = false) → least fun l => l.promoted = false) ∧
      (m = .twoQueue → (∀ l ∈ ways, l.promoted = true) → least fun _ => True))

/-- R87, R88: a prefetch, and all the work it causes at every level, changes no `accesses`, `hits` or `misses`; a demand request
counts one access, and one hit or one miss, at the top. -/
def Obligations.PrefetchesAreNotCounted : Prop :=
  ∀ (cfg : Config) (st st' : Storage) (r : Req) (buf : List Byte) (hit : Bool) (time : Nat), st.Sound cfg →
    handleTop cfg r st = .ok st' buf hit time →
    let stats := fun lv : Level => (lv.accesses, lv.hits, lv.misses)
    (r.isPrefetch = true → st'.levels.map stats = st.levels.map stats) ∧
    (r.isPrefetch = false → cfg.levels ≠ [] →
      (st'.levels.map stats).head? = (st.levels.map stats).head?.map fun x =>
        (x.1 + 1, x.2.1 + (if hit then 1 else 0), x.2.2 + (if hit then 0 else 1)))

/-- R74, R83: a write miss at a no-write-allocate level leaves that level's lines as they are and answers the lower layer's time,
as a miss. -/
def Obligations.NoWriteAllocateInstallsNothing : Prop :=
  ∀ (i : Nat) (c : LevelCfg) (lower : Req → Storage → Reply) (r : Req) (lv : Level) (below : Storage), c.wa = false →
    r.isRead = false → c.off r.addr + r.bytes ≤ c.lineSize → findHit (lv.ways (c.set r.addr)) (c.tag r.addr) = none →
    (∀ b buf hit time, lower r below = .ok b buf hit time →
      ∃ lv', serve i c lower r lv below = .ok (push lv' b) r.buf false time ∧ lv'.sets = lv.sets ∧ lv'.tick = lv.tick + 1)

/-- R73, R75, R77, R84: the times of a hit and of an allocate miss, and the one writeback of a dirty victim. -/
def Obligations.TimesAndWritebacks : Prop :=
  ∀ (i : Nat) (c : LevelCfg) (lower : Req → Storage → Reply) (r : Req) (lv : Level) (below : Storage) (st : Storage)
    (buf : List Byte) (hit : Bool) (time : Nat), serve i c lower r lv below = .ok st buf hit time →
    let found := findHit (lv.ways (c.set r.addr)) (c.tag r.addr)
    let old := lv.line (c.set r.addr) (victim c.method (lv.ways (c.set r.addr)))
    let fill : Req := { addr := c.base r.addr, bytes := c.lineSize, isRead := true, buf := [], isPrefetch := r.isPrefetch }
    let evict : Req := { addr := c.lineAddr (c.set r.addr) old.tag, bytes := c.lineSize, isRead := false, buf := old.data,
                         isPrefetch := r.isPrefetch }
    (∀ w, found = some w → hit = true ∧ time = c.busLat + c.hitLat ∧
      ∃ lv', st.levels.head? = some lv' ∧ lv'.writebacks = lv.writebacks) ∧
    (found = none → (r.isRead = true ∨ c.wa = true) → hit = false ∧
      (old.valid = true → old.dirty = true →
        ∃ b1 x1 h1 twb b2 x2 h2 tf, lower evict below = .ok b1 x1 h1 twb ∧ lower fill b1 = .ok b2 x2 h2 tf ∧
          time = c.busLat + twb + tf ∧ ∃ lv', st.levels.head? = some lv' ∧ lv'.writebacks = lv.writebacks + 1) ∧
      (old.valid = false ∨ old.dirty = false →
        ∃ b2 x2 h2 tf, lower fill below = .ok b2 x2 h2 tf ∧ time = c.busLat + tf ∧
          ∃ lv', st.levels.head? = some lv' ∧ lv'.writebacks = lv.writebacks))
end

