-- ==== Sys2Proof/Laws/Decode.lean ====
section
/-! SUPPORT. What the fields of a packed word are, and that packing a word's fields gives the word (30_encoding.md R122 to R130):
the decoder and the encoder read and write the same bits. -/

namespace Sys2Proof

/-! ### Fields of `packR` -/

@[simp] theorem opcodeOf_packR (f7 : BitVec 7) (rs2 rs1 : Reg) (f3 : BitVec 3) (rd : Reg) (op : BitVec 7) : opcodeOf (packR f7 rs2 rs1 f3 rd op) = op := by
  ext i hi
  simp only [opcodeOf, packR, BitVec.getElem_extractLsb', BitVec.getLsbD_append]
  grind

@[simp] theorem rdOf_packR (f7 : BitVec 7) (rs2 rs1 : Reg) (f3 : BitVec 3) (rd : Reg) (op : BitVec 7) : rdOf (packR f7 rs2 rs1 f3 rd op) = rd := by
  ext i hi
  simp only [rdOf, packR, BitVec.getElem_extractLsb', BitVec.getLsbD_append]
  grind

@[simp] theorem func3Of_packR (f7 : BitVec 7) (rs2 rs1 : Reg) (f3 : BitVec 3) (rd : Reg) (op : BitVec 7) : func3Of (packR f7 rs2 rs1 f3 rd op) = f3 := by
  ext i hi
  simp only [func3Of, packR, BitVec.getElem_extractLsb', BitVec.getLsbD_append]
  grind

@[simp] theorem rs1Of_packR (f7 : BitVec 7) (rs2 rs1 : Reg) (f3 : BitVec 3) (rd : Reg) (op : BitVec 7) : rs1Of (packR f7 rs2 rs1 f3 rd op) = rs1 := by
  ext i hi
  simp only [rs1Of, packR, BitVec.getElem_extractLsb', BitVec.getLsbD_append]
  grind

@[simp] theorem rs2Of_packR (f7 : BitVec 7) (rs2 rs1 : Reg) (f3 : BitVec 3) (rd : Reg) (op : BitVec 7) : rs2Of (packR f7 rs2 rs1 f3 rd op) = rs2 := by
  ext i hi
  simp only [rs2Of, packR, BitVec.getElem_extractLsb', BitVec.getLsbD_append]
  grind

@[simp] theorem func7Of_packR (f7 : BitVec 7) (rs2 rs1 : Reg) (f3 : BitVec 3) (rd : Reg) (op : BitVec 7) : func7Of (packR f7 rs2 rs1 f3 rd op) = f7 := by
  ext i hi
  simp only [func7Of, packR, BitVec.getElem_extractLsb', BitVec.getLsbD_append]
  grind

/-! ### Fields of `packI` -/

@[simp] theorem opcodeOf_packI (imm : BitVec 12) (rs1 : Reg) (f3 : BitVec 3) (rd : Reg) (op : BitVec 7) : opcodeOf (packI imm rs1 f3 rd op) = op := by
  ext i hi
  simp only [opcodeOf, packI, BitVec.getElem_extractLsb', BitVec.getLsbD_append]
  grind

@[simp] theorem rdOf_packI (imm : BitVec 12) (rs1 : Reg) (f3 : BitVec 3) (rd : Reg) (op : BitVec 7) : rdOf (packI imm rs1 f3 rd op) = rd := by
  ext i hi
  simp only [rdOf, packI, BitVec.getElem_extractLsb', BitVec.getLsbD_append]
  grind

@[simp] theorem func3Of_packI (imm : BitVec 12) (rs1 : Reg) (f3 : BitVec 3) (rd : Reg) (op : BitVec 7) : func3Of (packI imm rs1 f3 rd op) = f3 := by
  ext i hi
  simp only [func3Of, packI, BitVec.getElem_extractLsb', BitVec.getLsbD_append]
  grind

@[simp] theorem rs1Of_packI (imm : BitVec 12) (rs1 : Reg) (f3 : BitVec 3) (rd : Reg) (op : BitVec 7) : rs1Of (packI imm rs1 f3 rd op) = rs1 := by
  ext i hi
  simp only [rs1Of, packI, BitVec.getElem_extractLsb', BitVec.getLsbD_append]
  grind

@[simp] theorem immIOf_packI (imm : BitVec 12) (rs1 : Reg) (f3 : BitVec 3) (rd : Reg) (op : BitVec 7) : immIOf (packI imm rs1 f3 rd op) = imm := by
  ext i hi
  simp only [immIOf, packI, BitVec.getElem_extractLsb', BitVec.getLsbD_append]
  grind

@[simp] theorem func6Of_packI (imm : BitVec 12) (rs1 : Reg) (f3 : BitVec 3) (rd : Reg) (op : BitVec 7) : func6Of (packI imm rs1 f3 rd op) = imm.extractLsb' 6 6 := by
  ext i hi
  simp only [func6Of, packI, BitVec.getElem_extractLsb', BitVec.getLsbD_append]
  grind

@[simp] theorem shamt6Of_packI (imm : BitVec 12) (rs1 : Reg) (f3 : BitVec 3) (rd : Reg) (op : BitVec 7) : shamt6Of (packI imm rs1 f3 rd op) = imm.extractLsb' 0 6 := by
  ext i hi
  simp only [shamt6Of, packI, BitVec.getElem_extractLsb', BitVec.getLsbD_append]
  grind

@[simp] theorem func7Of_packI (imm : BitVec 12) (rs1 : Reg) (f3 : BitVec 3) (rd : Reg) (op : BitVec 7) : func7Of (packI imm rs1 f3 rd op) = imm.extractLsb' 5 7 := by
  ext i hi
  simp only [func7Of, packI, BitVec.getElem_extractLsb', BitVec.getLsbD_append]
  grind

@[simp] theorem shamt5Of_packI (imm : BitVec 12) (rs1 : Reg) (f3 : BitVec 3) (rd : Reg) (op : BitVec 7) : shamt5Of (packI imm rs1 f3 rd op) = imm.extractLsb' 0 5 := by
  ext i hi
  simp only [shamt5Of, packI, BitVec.getElem_extractLsb', BitVec.getLsbD_append]
  grind

/-! ### Fields of `packS` -/

@[simp] theorem opcodeOf_packS (imm : BitVec 12) (rs2 rs1 : Reg) (f3 : BitVec 3) (op : BitVec 7) : opcodeOf (packS imm rs2 rs1 f3 op) = op := by
  ext i hi
  simp only [opcodeOf, packS, BitVec.getElem_extractLsb', BitVec.getLsbD_append]
  grind

@[simp] theorem func3Of_packS (imm : BitVec 12) (rs2 rs1 : Reg) (f3 : BitVec 3) (op : BitVec 7) : func3Of (packS imm rs2 rs1 f3 op) = f3 := by
  ext i hi
  simp only [func3Of, packS, BitVec.getElem_extractLsb', BitVec.getLsbD_append]
  grind

@[simp] theorem rs1Of_packS (imm : BitVec 12) (rs2 rs1 : Reg) (f3 : BitVec 3) (op : BitVec 7) : rs1Of (packS imm rs2 rs1 f3 op) = rs1 := by
  ext i hi
  simp only [rs1Of, packS, BitVec.getElem_extractLsb', BitVec.getLsbD_append]
  grind

@[simp] theorem rs2Of_packS (imm : BitVec 12) (rs2 rs1 : Reg) (f3 : BitVec 3) (op : BitVec 7) : rs2Of (packS imm rs2 rs1 f3 op) = rs2 := by
  ext i hi
  simp only [rs2Of, packS, BitVec.getElem_extractLsb', BitVec.getLsbD_append]
  grind

/-! ### Fields of `packSB` -/

@[simp] theorem opcodeOf_packSB (off : BitVec 13) (rs2 rs1 : Reg) (f3 : BitVec 3) (op : BitVec 7) : opcodeOf (packSB off rs2 rs1 f3 op) = op := by
  ext i hi
  simp only [opcodeOf, packSB, BitVec.getElem_extractLsb', BitVec.getLsbD_append]
  grind

@[simp] theorem func3Of_packSB (off : BitVec 13) (rs2 rs1 : Reg) (f3 : BitVec 3) (op : BitVec 7) : func3Of (packSB off rs2 rs1 f3 op) = f3 := by
  ext i hi
  simp only [func3Of, packSB, BitVec.getElem_extractLsb', BitVec.getLsbD_append]
  grind

@[simp] theorem rs1Of_packSB (off : BitVec 13) (rs2 rs1 : Reg) (f3 : BitVec 3) (op : BitVec 7) : rs1Of (packSB off rs2 rs1 f3 op) = rs1 := by
  ext i hi
  simp only [rs1Of, packSB, BitVec.getElem_extractLsb', BitVec.getLsbD_append]
  grind

@[simp] theorem rs2Of_packSB (off : BitVec 13) (rs2 rs1 : Reg) (f3 : BitVec 3) (op : BitVec 7) : rs2Of (packSB off rs2 rs1 f3 op) = rs2 := by
  ext i hi
  simp only [rs2Of, packSB, BitVec.getElem_extractLsb', BitVec.getLsbD_append]
  grind

/-! ### Fields of `packU` -/

@[simp] theorem opcodeOf_packU (imm : BitVec 20) (rd : Reg) (op : BitVec 7) : opcodeOf (packU imm rd op) = op := by
  ext i hi
  simp only [opcodeOf, packU, BitVec.getElem_extractLsb', BitVec.getLsbD_append]
  grind

@[simp] theorem rdOf_packU (imm : BitVec 20) (rd : Reg) (op : BitVec 7) : rdOf (packU imm rd op) = rd := by
  ext i hi
  simp only [rdOf, packU, BitVec.getElem_extractLsb', BitVec.getLsbD_append]
  grind

@[simp] theorem immUOf_packU (imm : BitVec 20) (rd : Reg) (op : BitVec 7) : immUOf (packU imm rd op) = imm := by
  ext i hi
  simp only [immUOf, packU, BitVec.getElem_extractLsb', BitVec.getLsbD_append]
  grind

/-! ### Fields of `packUJ` -/

@[simp] theorem opcodeOf_packUJ (off : BitVec 21) (rd : Reg) (op : BitVec 7) : opcodeOf (packUJ off rd op) = op := by
  ext i hi
  simp only [opcodeOf, packUJ, BitVec.getElem_extractLsb', BitVec.getLsbD_append]
  grind

@[simp] theorem rdOf_packUJ (off : BitVec 21) (rd : Reg) (op : BitVec 7) : rdOf (packUJ off rd op) = rd := by
  ext i hi
  simp only [rdOf, packUJ, BitVec.getElem_extractLsb', BitVec.getLsbD_append]
  grind

/-! ### Immediates in pieces -/

@[simp] theorem immSOf_packS (imm : BitVec 12) (rs2 rs1 : Reg) (f3 : BitVec 3) (op : BitVec 7) :
    immSOf (packS imm rs2 rs1 f3 op) = imm := by
  have h1 : rdOf (packS imm rs2 rs1 f3 op) = imm.extractLsb' 0 5 := by
    ext i hi
    simp only [rdOf, packS, BitVec.getElem_extractLsb', BitVec.getLsbD_append]
    grind
  have h2 : func7Of (packS imm rs2 rs1 f3 op) = imm.extractLsb' 5 7 := by
    ext i hi
    simp only [func7Of, packS, BitVec.getElem_extractLsb', BitVec.getLsbD_append]
    grind
  rw [immSOf, h1, h2]
  exact (BitVec.extractLsb'_append_extractLsb'_eq_extractLsb' rfl).trans BitVec.extractLsb'_eq_self

/-- The bits of an SB-immediate, one by one (R127). -/
theorem getLsbD_immSBOf (w : InstrWord) (i : Nat) : (immSBOf w).getLsbD i =
    if i = 0 then false else if i < 5 then w.getLsbD (i + 7) else if i < 11 then w.getLsbD (i + 20)
    else if i = 11 then w.getLsbD 7 else if i = 12 then w.getLsbD 31 else false := by
  change BitVec.getLsbD (w := 1 + 1 + 6 + 4 + 1)
    (w.extractLsb' 31 1 ++ w.extractLsb' 7 1 ++ w.extractLsb' 25 6 ++ w.extractLsb' 8 4 ++ 0#1) i = _
  simp only [BitVec.getLsbD_append, BitVec.getLsbD_extractLsb']
  repeat' split
  all_goals simp_all
  all_goals (try omega)
  all_goals (congr 1; try omega)

/-- The bits of a UJ-immediate, one by one (R129). -/
theorem getLsbD_immUJOf (w : InstrWord) (i : Nat) : (immUJOf w).getLsbD i =
    if i = 0 then false else if i < 11 then w.getLsbD (i + 20) else if i = 11 then w.getLsbD 20
    else if i < 20 then w.getLsbD i else if i = 20 then w.getLsbD 31 else false := by
  change BitVec.getLsbD (w := 1 + 8 + 1 + 10 + 1)
    (w.extractLsb' 31 1 ++ w.extractLsb' 12 8 ++ w.extractLsb' 20 1 ++ w.extractLsb' 21 10 ++ 0#1) i = _
  simp only [BitVec.getLsbD_append, BitVec.getLsbD_extractLsb']
  repeat' split
  all_goals simp_all
  all_goals (try omega)
  all_goals (congr 1; try omega)

theorem immSBOf_packSB (off : BitVec 13) (rs2 rs1 : Reg) (f3 : BitVec 3) (op : BitVec 7) (h : off.getLsbD 0 = false) :
    immSBOf (packSB off rs2 rs1 f3 op) = off := by
  apply BitVec.eq_of_getLsbD_eq
  intro i hi
  rw [getLsbD_immSBOf]
  simp only [packSB, BitVec.getLsbD_append, BitVec.getLsbD_extractLsb']
  rw [BitVec.getLsbD_eq_getElem (by decide)] at h
  interval_cases i <;> simp [h]

theorem immUJOf_packUJ (off : BitVec 21) (rd : Reg) (op : BitVec 7) (h : off.getLsbD 0 = false) :
    immUJOf (packUJ off rd op) = off := by
  apply BitVec.eq_of_getLsbD_eq
  intro i hi
  rw [getLsbD_immUJOf]
  simp only [packUJ, BitVec.getLsbD_append, BitVec.getLsbD_extractLsb']
  rw [BitVec.getLsbD_eq_getElem (by decide)] at h
  interval_cases i <;> simp [h]

/-! ### Packing the fields of a word -/

theorem packR_fields (w : InstrWord) : packR (func7Of w) (rs2Of w) (rs1Of w) (func3Of w) (rdOf w) (opcodeOf w) = w := by
  apply BitVec.eq_of_getLsbD_eq
  intro i hi
  simp only [packR, func7Of, rs2Of, rs1Of, func3Of, rdOf, opcodeOf, BitVec.getLsbD_append, BitVec.getLsbD_extractLsb']
  interval_cases i <;> simp

theorem packI_fields (w : InstrWord) : packI (immIOf w) (rs1Of w) (func3Of w) (rdOf w) (opcodeOf w) = w := by
  apply BitVec.eq_of_getLsbD_eq
  intro i hi
  simp only [packI, immIOf, rs1Of, func3Of, rdOf, opcodeOf, BitVec.getLsbD_append, BitVec.getLsbD_extractLsb']
  interval_cases i <;> simp

theorem packU_fields (w : InstrWord) : packU (immUOf w) (rdOf w) (opcodeOf w) = w := by
  apply BitVec.eq_of_getLsbD_eq
  intro i hi
  simp only [packU, immUOf, rdOf, opcodeOf, BitVec.getLsbD_append, BitVec.getLsbD_extractLsb']
  interval_cases i <;> simp

theorem packS_fields (w : InstrWord) : packS (immSOf w) (rs2Of w) (rs1Of w) (func3Of w) (opcodeOf w) = w := by
  apply BitVec.eq_of_getLsbD_eq
  intro i hi
  simp only [packS, immSOf, func7Of, rs2Of, rs1Of, func3Of, rdOf, opcodeOf, BitVec.getLsbD_append, BitVec.getLsbD_extractLsb']
  interval_cases i <;> simp

theorem packSB_fields (w : InstrWord) : packSB (immSBOf w) (rs2Of w) (rs1Of w) (func3Of w) (opcodeOf w) = w := by
  apply BitVec.eq_of_getLsbD_eq
  intro i hi
  simp only [packSB, rs2Of, rs1Of, func3Of, opcodeOf, BitVec.getLsbD_append, BitVec.getLsbD_extractLsb', getLsbD_immSBOf]
  interval_cases i <;> simp

theorem packUJ_fields (w : InstrWord) : packUJ (immUJOf w) (rdOf w) (opcodeOf w) = w := by
  apply BitVec.eq_of_getLsbD_eq
  intro i hi
  simp only [packUJ, rdOf, opcodeOf, BitVec.getLsbD_append, BitVec.getLsbD_extractLsb', getLsbD_immUJOf]
  interval_cases i <;> simp

end Sys2Proof
end

