-- ==== Sys2Proof/Laws/State.lean ====
section
/-! SUPPORT. Record lemmas: what each named update of the state leaves in each field. -/

namespace Sys2Proof.Machine

variable (s : State)

/-! ### `raise` -/

@[simp] theorem raise_cfg (k : FatalKind) : (raise k s).cfg = s.cfg := rfl
@[simp] theorem raise_regs (k : FatalKind) : (raise k s).regs = s.regs := rfl
@[simp] theorem raise_fCur (k : FatalKind) : (raise k s).fCur = s.fCur := rfl
@[simp] theorem raise_fNxt (k : FatalKind) : (raise k s).fNxt = s.fNxt := rfl
@[simp] theorem raise_dCur (k : FatalKind) : (raise k s).dCur = s.dCur := rfl
@[simp] theorem raise_dNxt (k : FatalKind) : (raise k s).dNxt = s.dNxt := rfl
@[simp] theorem raise_eCur (k : FatalKind) : (raise k s).eCur = s.eCur := rfl
@[simp] theorem raise_eNxt (k : FatalKind) : (raise k s).eNxt = s.eNxt := rfl
@[simp] theorem raise_mCur (k : FatalKind) : (raise k s).mCur = s.mCur := rfl
@[simp] theorem raise_mNxt (k : FatalKind) : (raise k s).mNxt = s.mNxt := rfl
@[simp] theorem raise_wCur (k : FatalKind) : (raise k s).wCur = s.wCur := rfl
@[simp] theorem raise_wNxt (k : FatalKind) : (raise k s).wNxt = s.wNxt := rfl
@[simp] theorem raise_bht (k : FatalKind) : (raise k s).bht = s.bht := rfl
@[simp] theorem raise_storage (k : FatalKind) : (raise k s).storage = s.storage := rfl
@[simp] theorem raise_pt (k : FatalKind) : (raise k s).pt = s.pt := rfl
@[simp] theorem raise_free (k : FatalKind) : (raise k s).free = s.free := rfl
@[simp] theorem raise_ctr (k : FatalKind) : (raise k s).ctr = s.ctr := rfl
@[simp] theorem raise_status (k : FatalKind) : (raise k s).status = .fatal k := rfl
@[simp] theorem raise_out (k : FatalKind) : (raise k s).out = s.out := rfl
@[simp] theorem raise_input (k : FatalKind) : (raise k s).input = s.input := rfl
@[simp] theorem raise_inputPos (k : FatalKind) : (raise k s).inputPos = s.inputPos := rfl
@[simp] theorem raise_sig (k : FatalKind) : (raise k s).sig = s.sig := rfl

/-! ### `emit` -/

@[simp] theorem emit_cfg (e : Event) : (emit e s).cfg = s.cfg := rfl
@[simp] theorem emit_regs (e : Event) : (emit e s).regs = s.regs := rfl
@[simp] theorem emit_fCur (e : Event) : (emit e s).fCur = s.fCur := rfl
@[simp] theorem emit_fNxt (e : Event) : (emit e s).fNxt = s.fNxt := rfl
@[simp] theorem emit_dCur (e : Event) : (emit e s).dCur = s.dCur := rfl
@[simp] theorem emit_dNxt (e : Event) : (emit e s).dNxt = s.dNxt := rfl
@[simp] theorem emit_eCur (e : Event) : (emit e s).eCur = s.eCur := rfl
@[simp] theorem emit_eNxt (e : Event) : (emit e s).eNxt = s.eNxt := rfl
@[simp] theorem emit_mCur (e : Event) : (emit e s).mCur = s.mCur := rfl
@[simp] theorem emit_mNxt (e : Event) : (emit e s).mNxt = s.mNxt := rfl
@[simp] theorem emit_wCur (e : Event) : (emit e s).wCur = s.wCur := rfl
@[simp] theorem emit_wNxt (e : Event) : (emit e s).wNxt = s.wNxt := rfl
@[simp] theorem emit_bht (e : Event) : (emit e s).bht = s.bht := rfl
@[simp] theorem emit_storage (e : Event) : (emit e s).storage = s.storage := rfl
@[simp] theorem emit_pt (e : Event) : (emit e s).pt = s.pt := rfl
@[simp] theorem emit_free (e : Event) : (emit e s).free = s.free := rfl
@[simp] theorem emit_ctr (e : Event) : (emit e s).ctr = s.ctr := rfl
@[simp] theorem emit_status (e : Event) : (emit e s).status = s.status := rfl
@[simp] theorem emit_out (e : Event) : (emit e s).out = s.out ++ [e] := rfl
@[simp] theorem emit_input (e : Event) : (emit e s).input = s.input := rfl
@[simp] theorem emit_inputPos (e : Event) : (emit e s).inputPos = s.inputPos := rfl
@[simp] theorem emit_sig (e : Event) : (emit e s).sig = s.sig := rfl

/-! ### `countInst` -/

@[simp] theorem countInst_cfg : (countInst s).cfg = s.cfg := rfl
@[simp] theorem countInst_regs : (countInst s).regs = s.regs := rfl
@[simp] theorem countInst_fCur : (countInst s).fCur = s.fCur := rfl
@[simp] theorem countInst_fNxt : (countInst s).fNxt = s.fNxt := rfl
@[simp] theorem countInst_dCur : (countInst s).dCur = s.dCur := rfl
@[simp] theorem countInst_dNxt : (countInst s).dNxt = s.dNxt := rfl
@[simp] theorem countInst_eCur : (countInst s).eCur = s.eCur := rfl
@[simp] theorem countInst_eNxt : (countInst s).eNxt = s.eNxt := rfl
@[simp] theorem countInst_mCur : (countInst s).mCur = s.mCur := rfl
@[simp] theorem countInst_mNxt : (countInst s).mNxt = s.mNxt := rfl
@[simp] theorem countInst_wCur : (countInst s).wCur = s.wCur := rfl
@[simp] theorem countInst_wNxt : (countInst s).wNxt = s.wNxt := rfl
@[simp] theorem countInst_bht : (countInst s).bht = s.bht := rfl
@[simp] theorem countInst_storage : (countInst s).storage = s.storage := rfl
@[simp] theorem countInst_pt : (countInst s).pt = s.pt := rfl
@[simp] theorem countInst_free : (countInst s).free = s.free := rfl
@[simp] theorem countInst_ctr : (countInst s).ctr = { s.ctr with instCount := s.ctr.instCount + 1 } := rfl
@[simp] theorem countInst_status : (countInst s).status = s.status := rfl
@[simp] theorem countInst_out : (countInst s).out = s.out := rfl
@[simp] theorem countInst_input : (countInst s).input = s.input := rfl
@[simp] theorem countInst_inputPos : (countInst s).inputPos = s.inputPos := rfl
@[simp] theorem countInst_sig : (countInst s).sig = s.sig := rfl

/-! ### `countBranch` -/

@[simp] theorem countBranch_cfg (ok : Bool) : (countBranch ok s).cfg = s.cfg := rfl
@[simp] theorem countBranch_regs (ok : Bool) : (countBranch ok s).regs = s.regs := rfl
@[simp] theorem countBranch_fCur (ok : Bool) : (countBranch ok s).fCur = s.fCur := rfl
@[simp] theorem countBranch_fNxt (ok : Bool) : (countBranch ok s).fNxt = s.fNxt := rfl
@[simp] theorem countBranch_dCur (ok : Bool) : (countBranch ok s).dCur = s.dCur := rfl
@[simp] theorem countBranch_dNxt (ok : Bool) : (countBranch ok s).dNxt = s.dNxt := rfl
@[simp] theorem countBranch_eCur (ok : Bool) : (countBranch ok s).eCur = s.eCur := rfl
@[simp] theorem countBranch_eNxt (ok : Bool) : (countBranch ok s).eNxt = s.eNxt := rfl
@[simp] theorem countBranch_mCur (ok : Bool) : (countBranch ok s).mCur = s.mCur := rfl
@[simp] theorem countBranch_mNxt (ok : Bool) : (countBranch ok s).mNxt = s.mNxt := rfl
@[simp] theorem countBranch_wCur (ok : Bool) : (countBranch ok s).wCur = s.wCur := rfl
@[simp] theorem countBranch_wNxt (ok : Bool) : (countBranch ok s).wNxt = s.wNxt := rfl
@[simp] theorem countBranch_bht (ok : Bool) : (countBranch ok s).bht = s.bht := rfl
@[simp] theorem countBranch_storage (ok : Bool) : (countBranch ok s).storage = s.storage := rfl
@[simp] theorem countBranch_pt (ok : Bool) : (countBranch ok s).pt = s.pt := rfl
@[simp] theorem countBranch_free (ok : Bool) : (countBranch ok s).free = s.free := rfl
@[simp] theorem countBranch_ctr (ok : Bool) : (countBranch ok s).ctr = { s.ctr with branchCount := s.ctr.branchCount + 1, branchCorrect := s.ctr.branchCorrect + (if ok then 1 else 0) } := rfl
@[simp] theorem countBranch_status (ok : Bool) : (countBranch ok s).status = s.status := rfl
@[simp] theorem countBranch_out (ok : Bool) : (countBranch ok s).out = s.out := rfl
@[simp] theorem countBranch_input (ok : Bool) : (countBranch ok s).input = s.input := rfl
@[simp] theorem countBranch_inputPos (ok : Bool) : (countBranch ok s).inputPos = s.inputPos := rfl
@[simp] theorem countBranch_sig (ok : Bool) : (countBranch ok s).sig = s.sig := rfl

/-! ### `countHazard` -/

@[simp] theorem countHazard_cfg : (countHazard s).cfg = s.cfg := rfl
@[simp] theorem countHazard_regs : (countHazard s).regs = s.regs := rfl
@[simp] theorem countHazard_fCur : (countHazard s).fCur = s.fCur := rfl
@[simp] theorem countHazard_fNxt : (countHazard s).fNxt = s.fNxt := rfl
@[simp] theorem countHazard_dCur : (countHazard s).dCur = s.dCur := rfl
@[simp] theorem countHazard_dNxt : (countHazard s).dNxt = s.dNxt := rfl
@[simp] theorem countHazard_eCur : (countHazard s).eCur = s.eCur := rfl
@[simp] theorem countHazard_eNxt : (countHazard s).eNxt = s.eNxt := rfl
@[simp] theorem countHazard_mCur : (countHazard s).mCur = s.mCur := rfl
@[simp] theorem countHazard_mNxt : (countHazard s).mNxt = s.mNxt := rfl
@[simp] theorem countHazard_wCur : (countHazard s).wCur = s.wCur := rfl
@[simp] theorem countHazard_wNxt : (countHazard s).wNxt = s.wNxt := rfl
@[simp] theorem countHazard_bht : (countHazard s).bht = s.bht := rfl
@[simp] theorem countHazard_storage : (countHazard s).storage = s.storage := rfl
@[simp] theorem countHazard_pt : (countHazard s).pt = s.pt := rfl
@[simp] theorem countHazard_free : (countHazard s).free = s.free := rfl
@[simp] theorem countHazard_ctr : (countHazard s).ctr = { s.ctr with controlHazards := s.ctr.controlHazards + 1 } := rfl
@[simp] theorem countHazard_status : (countHazard s).status = s.status := rfl
@[simp] theorem countHazard_out : (countHazard s).out = s.out := rfl
@[simp] theorem countHazard_input : (countHazard s).input = s.input := rfl
@[simp] theorem countHazard_inputPos : (countHazard s).inputPos = s.inputPos := rfl
@[simp] theorem countHazard_sig : (countHazard s).sig = s.sig := rfl

/-! ### `countLoadUse` -/

@[simp] theorem countLoadUse_cfg : (countLoadUse s).cfg = s.cfg := rfl
@[simp] theorem countLoadUse_regs : (countLoadUse s).regs = s.regs := rfl
@[simp] theorem countLoadUse_fCur : (countLoadUse s).fCur = s.fCur := rfl
@[simp] theorem countLoadUse_fNxt : (countLoadUse s).fNxt = s.fNxt := rfl
@[simp] theorem countLoadUse_dCur : (countLoadUse s).dCur = s.dCur := rfl
@[simp] theorem countLoadUse_dNxt : (countLoadUse s).dNxt = s.dNxt := rfl
@[simp] theorem countLoadUse_eCur : (countLoadUse s).eCur = s.eCur := rfl
@[simp] theorem countLoadUse_eNxt : (countLoadUse s).eNxt = s.eNxt := rfl
@[simp] theorem countLoadUse_mCur : (countLoadUse s).mCur = s.mCur := rfl
@[simp] theorem countLoadUse_mNxt : (countLoadUse s).mNxt = s.mNxt := rfl
@[simp] theorem countLoadUse_wCur : (countLoadUse s).wCur = s.wCur := rfl
@[simp] theorem countLoadUse_wNxt : (countLoadUse s).wNxt = s.wNxt := rfl
@[simp] theorem countLoadUse_bht : (countLoadUse s).bht = s.bht := rfl
@[simp] theorem countLoadUse_storage : (countLoadUse s).storage = s.storage := rfl
@[simp] theorem countLoadUse_pt : (countLoadUse s).pt = s.pt := rfl
@[simp] theorem countLoadUse_free : (countLoadUse s).free = s.free := rfl
@[simp] theorem countLoadUse_ctr : (countLoadUse s).ctr = { s.ctr with loadUseStalls := s.ctr.loadUseStalls + 1 } := rfl
@[simp] theorem countLoadUse_status : (countLoadUse s).status = s.status := rfl
@[simp] theorem countLoadUse_out : (countLoadUse s).out = s.out := rfl
@[simp] theorem countLoadUse_input : (countLoadUse s).input = s.input := rfl
@[simp] theorem countLoadUse_inputPos : (countLoadUse s).inputPos = s.inputPos := rfl
@[simp] theorem countLoadUse_sig : (countLoadUse s).sig = s.sig := rfl

/-! ### `report` -/

@[simp] theorem report_cfg (c : Nat) : (report c s).cfg = s.cfg := rfl
@[simp] theorem report_regs (c : Nat) : (report c s).regs = s.regs := rfl
@[simp] theorem report_fCur (c : Nat) : (report c s).fCur = s.fCur := rfl
@[simp] theorem report_fNxt (c : Nat) : (report c s).fNxt = s.fNxt := rfl
@[simp] theorem report_dCur (c : Nat) : (report c s).dCur = s.dCur := rfl
@[simp] theorem report_dNxt (c : Nat) : (report c s).dNxt = s.dNxt := rfl
@[simp] theorem report_eCur (c : Nat) : (report c s).eCur = s.eCur := rfl
@[simp] theorem report_eNxt (c : Nat) : (report c s).eNxt = s.eNxt := rfl
@[simp] theorem report_mCur (c : Nat) : (report c s).mCur = s.mCur := rfl
@[simp] theorem report_mNxt (c : Nat) : (report c s).mNxt = s.mNxt := rfl
@[simp] theorem report_wCur (c : Nat) : (report c s).wCur = s.wCur := rfl
@[simp] theorem report_wNxt (c : Nat) : (report c s).wNxt = s.wNxt := rfl
@[simp] theorem report_bht (c : Nat) : (report c s).bht = s.bht := rfl
@[simp] theorem report_storage (c : Nat) : (report c s).storage = s.storage := rfl
@[simp] theorem report_pt (c : Nat) : (report c s).pt = s.pt := rfl
@[simp] theorem report_free (c : Nat) : (report c s).free = s.free := rfl
@[simp] theorem report_ctr (c : Nat) : (report c s).ctr = s.ctr := rfl
@[simp] theorem report_status (c : Nat) : (report c s).status = s.status := rfl
@[simp] theorem report_out (c : Nat) : (report c s).out = s.out := rfl
@[simp] theorem report_input (c : Nat) : (report c s).input = s.input := rfl
@[simp] theorem report_inputPos (c : Nat) : (report c s).inputPos = s.inputPos := rfl
@[simp] theorem report_sig (c : Nat) : (report c s).sig = { s.sig with cost := max s.sig.cost c } := rfl

/-! ### `atPhase` -/

@[simp] theorem atPhase_cfg (p : Phase) : (atPhase p s).cfg = s.cfg := rfl
@[simp] theorem atPhase_regs (p : Phase) : (atPhase p s).regs = s.regs := rfl
@[simp] theorem atPhase_fCur (p : Phase) : (atPhase p s).fCur = s.fCur := rfl
@[simp] theorem atPhase_fNxt (p : Phase) : (atPhase p s).fNxt = s.fNxt := rfl
@[simp] theorem atPhase_dCur (p : Phase) : (atPhase p s).dCur = s.dCur := rfl
@[simp] theorem atPhase_dNxt (p : Phase) : (atPhase p s).dNxt = s.dNxt := rfl
@[simp] theorem atPhase_eCur (p : Phase) : (atPhase p s).eCur = s.eCur := rfl
@[simp] theorem atPhase_eNxt (p : Phase) : (atPhase p s).eNxt = s.eNxt := rfl
@[simp] theorem atPhase_mCur (p : Phase) : (atPhase p s).mCur = s.mCur := rfl
@[simp] theorem atPhase_mNxt (p : Phase) : (atPhase p s).mNxt = s.mNxt := rfl
@[simp] theorem atPhase_wCur (p : Phase) : (atPhase p s).wCur = s.wCur := rfl
@[simp] theorem atPhase_wNxt (p : Phase) : (atPhase p s).wNxt = s.wNxt := rfl
@[simp] theorem atPhase_bht (p : Phase) : (atPhase p s).bht = s.bht := rfl
@[simp] theorem atPhase_storage (p : Phase) : (atPhase p s).storage = s.storage := rfl
@[simp] theorem atPhase_pt (p : Phase) : (atPhase p s).pt = s.pt := rfl
@[simp] theorem atPhase_free (p : Phase) : (atPhase p s).free = s.free := rfl
@[simp] theorem atPhase_ctr (p : Phase) : (atPhase p s).ctr = s.ctr := rfl
@[simp] theorem atPhase_status (p : Phase) : (atPhase p s).status = s.status := rfl
@[simp] theorem atPhase_out (p : Phase) : (atPhase p s).out = s.out := rfl
@[simp] theorem atPhase_input (p : Phase) : (atPhase p s).input = s.input := rfl
@[simp] theorem atPhase_inputPos (p : Phase) : (atPhase p s).inputPos = s.inputPos := rfl
@[simp] theorem atPhase_sig (p : Phase) : (atPhase p s).sig = { s.sig with phase := p } := rfl

/-! ### `updatePredictor` -/

@[simp] theorem updatePredictor_cfg (pc : Word) (taken : Bool) : (updatePredictor pc taken s).cfg = s.cfg := rfl
@[simp] theorem updatePredictor_regs (pc : Word) (taken : Bool) : (updatePredictor pc taken s).regs = s.regs := rfl
@[simp] theorem updatePredictor_fCur (pc : Word) (taken : Bool) : (updatePredictor pc taken s).fCur = s.fCur := rfl
@[simp] theorem updatePredictor_fNxt (pc : Word) (taken : Bool) : (updatePredictor pc taken s).fNxt = s.fNxt := rfl
@[simp] theorem updatePredictor_dCur (pc : Word) (taken : Bool) : (updatePredictor pc taken s).dCur = s.dCur := rfl
@[simp] theorem updatePredictor_dNxt (pc : Word) (taken : Bool) : (updatePredictor pc taken s).dNxt = s.dNxt := rfl
@[simp] theorem updatePredictor_eCur (pc : Word) (taken : Bool) : (updatePredictor pc taken s).eCur = s.eCur := rfl
@[simp] theorem updatePredictor_eNxt (pc : Word) (taken : Bool) : (updatePredictor pc taken s).eNxt = s.eNxt := rfl
@[simp] theorem updatePredictor_mCur (pc : Word) (taken : Bool) : (updatePredictor pc taken s).mCur = s.mCur := rfl
@[simp] theorem updatePredictor_mNxt (pc : Word) (taken : Bool) : (updatePredictor pc taken s).mNxt = s.mNxt := rfl
@[simp] theorem updatePredictor_wCur (pc : Word) (taken : Bool) : (updatePredictor pc taken s).wCur = s.wCur := rfl
@[simp] theorem updatePredictor_wNxt (pc : Word) (taken : Bool) : (updatePredictor pc taken s).wNxt = s.wNxt := rfl
@[simp] theorem updatePredictor_bht (pc : Word) (taken : Bool) : (updatePredictor pc taken s).bht = s.bht.set (bhtIndex s.cfg pc) (entryNext s.cfg.predStrategy (bhtEntry s pc) taken) := rfl
@[simp] theorem updatePredictor_storage (pc : Word) (taken : Bool) : (updatePredictor pc taken s).storage = s.storage := rfl
@[simp] theorem updatePredictor_pt (pc : Word) (taken : Bool) : (updatePredictor pc taken s).pt = s.pt := rfl
@[simp] theorem updatePredictor_free (pc : Word) (taken : Bool) : (updatePredictor pc taken s).free = s.free := rfl
@[simp] theorem updatePredictor_ctr (pc : Word) (taken : Bool) : (updatePredictor pc taken s).ctr = s.ctr := rfl
@[simp] theorem updatePredictor_status (pc : Word) (taken : Bool) : (updatePredictor pc taken s).status = s.status := rfl
@[simp] theorem updatePredictor_out (pc : Word) (taken : Bool) : (updatePredictor pc taken s).out = s.out := rfl
@[simp] theorem updatePredictor_input (pc : Word) (taken : Bool) : (updatePredictor pc taken s).input = s.input := rfl
@[simp] theorem updatePredictor_inputPos (pc : Word) (taken : Bool) : (updatePredictor pc taken s).inputPos = s.inputPos := rfl
@[simp] theorem updatePredictor_sig (pc : Word) (taken : Bool) : (updatePredictor pc taken s).sig = s.sig := rfl

/-! ### `redirect` -/

@[simp] theorem redirect_cfg (t : Word) : (redirect t s).cfg = s.cfg := rfl
@[simp] theorem redirect_regs (t : Word) : (redirect t s).regs = s.regs := rfl
@[simp] theorem redirect_fCur (t : Word) : (redirect t s).fCur = s.fCur := rfl
@[simp] theorem redirect_fNxt (t : Word) : (redirect t s).fNxt = { pc := t, bubble := false, stall := false } := rfl
@[simp] theorem redirect_dCur (t : Word) : (redirect t s).dCur = s.dCur := rfl
@[simp] theorem redirect_dNxt (t : Word) : (redirect t s).dNxt = Snap.bubble := rfl
@[simp] theorem redirect_eCur (t : Word) : (redirect t s).eCur = s.eCur := rfl
@[simp] theorem redirect_eNxt (t : Word) : (redirect t s).eNxt = Snap.bubble := rfl
@[simp] theorem redirect_mCur (t : Word) : (redirect t s).mCur = s.mCur := rfl
@[simp] theorem redirect_mNxt (t : Word) : (redirect t s).mNxt = s.mNxt := rfl
@[simp] theorem redirect_wCur (t : Word) : (redirect t s).wCur = s.wCur := rfl
@[simp] theorem redirect_wNxt (t : Word) : (redirect t s).wNxt = s.wNxt := rfl
@[simp] theorem redirect_bht (t : Word) : (redirect t s).bht = s.bht := rfl
@[simp] theorem redirect_storage (t : Word) : (redirect t s).storage = s.storage := rfl
@[simp] theorem redirect_pt (t : Word) : (redirect t s).pt = s.pt := rfl
@[simp] theorem redirect_free (t : Word) : (redirect t s).free = s.free := rfl
@[simp] theorem redirect_ctr (t : Word) : (redirect t s).ctr = s.ctr := rfl
@[simp] theorem redirect_status (t : Word) : (redirect t s).status = s.status := rfl
@[simp] theorem redirect_out (t : Word) : (redirect t s).out = s.out := rfl
@[simp] theorem redirect_input (t : Word) : (redirect t s).input = s.input := rfl
@[simp] theorem redirect_inputPos (t : Word) : (redirect t s).inputPos = s.inputPos := rfl
@[simp] theorem redirect_sig (t : Word) : (redirect t s).sig = s.sig := rfl

/-! ### `holdForLoad` -/

@[simp] theorem holdForLoad_cfg : (holdForLoad s).cfg = s.cfg := rfl
@[simp] theorem holdForLoad_regs : (holdForLoad s).regs = s.regs := rfl
@[simp] theorem holdForLoad_fCur : (holdForLoad s).fCur = s.fCur := rfl
@[simp] theorem holdForLoad_fNxt : (holdForLoad s).fNxt = { s.fNxt with stall := true } := rfl
@[simp] theorem holdForLoad_dCur : (holdForLoad s).dCur = s.dCur := rfl
@[simp] theorem holdForLoad_dNxt : (holdForLoad s).dNxt = { s.dNxt with stall := true } := rfl
@[simp] theorem holdForLoad_eCur : (holdForLoad s).eCur = s.eCur := rfl
@[simp] theorem holdForLoad_eNxt : (holdForLoad s).eNxt = Snap.bubble := rfl
@[simp] theorem holdForLoad_mCur : (holdForLoad s).mCur = s.mCur := rfl
@[simp] theorem holdForLoad_mNxt : (holdForLoad s).mNxt = s.mNxt := rfl
@[simp] theorem holdForLoad_wCur : (holdForLoad s).wCur = s.wCur := rfl
@[simp] theorem holdForLoad_wNxt : (holdForLoad s).wNxt = s.wNxt := rfl
@[simp] theorem holdForLoad_bht : (holdForLoad s).bht = s.bht := rfl
@[simp] theorem holdForLoad_storage : (holdForLoad s).storage = s.storage := rfl
@[simp] theorem holdForLoad_pt : (holdForLoad s).pt = s.pt := rfl
@[simp] theorem holdForLoad_free : (holdForLoad s).free = s.free := rfl
@[simp] theorem holdForLoad_ctr : (holdForLoad s).ctr = { s.ctr with loadUseStalls := s.ctr.loadUseStalls + 1 } := rfl
@[simp] theorem holdForLoad_status : (holdForLoad s).status = s.status := rfl
@[simp] theorem holdForLoad_out : (holdForLoad s).out = s.out := rfl
@[simp] theorem holdForLoad_input : (holdForLoad s).input = s.input := rfl
@[simp] theorem holdForLoad_inputPos : (holdForLoad s).inputPos = s.inputPos := rfl
@[simp] theorem holdForLoad_sig : (holdForLoad s).sig = s.sig := rfl

/-! ### `issue` -/

@[simp] theorem issue_cfg (i : Instr) (d : DSlot) : (issue i d s).cfg = s.cfg := rfl
@[simp] theorem issue_regs (i : Instr) (d : DSlot) : (issue i d s).regs = s.regs := rfl
@[simp] theorem issue_fCur (i : Instr) (d : DSlot) : (issue i d s).fCur = s.fCur := rfl
@[simp] theorem issue_fNxt (i : Instr) (d : DSlot) : (issue i d s).fNxt = s.fNxt := rfl
@[simp] theorem issue_dCur (i : Instr) (d : DSlot) : (issue i d s).dCur = s.dCur := rfl
@[simp] theorem issue_dNxt (i : Instr) (d : DSlot) : (issue i d s).dNxt = s.dNxt := rfl
@[simp] theorem issue_eCur (i : Instr) (d : DSlot) : (issue i d s).eCur = s.eCur := rfl
@[simp] theorem issue_eNxt (i : Instr) (d : DSlot) : (issue i d s).eNxt = Snap.of { pc := d.pc, inst := { word := d.word, addr := d.pc, op := i }, op1 := 0, op2 := 0, predTaken := d.predTaken, predNext := d.predNext } := rfl
@[simp] theorem issue_mCur (i : Instr) (d : DSlot) : (issue i d s).mCur = s.mCur := rfl
@[simp] theorem issue_mNxt (i : Instr) (d : DSlot) : (issue i d s).mNxt = s.mNxt := rfl
@[simp] theorem issue_wCur (i : Instr) (d : DSlot) : (issue i d s).wCur = s.wCur := rfl
@[simp] theorem issue_wNxt (i : Instr) (d : DSlot) : (issue i d s).wNxt = s.wNxt := rfl
@[simp] theorem issue_bht (i : Instr) (d : DSlot) : (issue i d s).bht = s.bht := rfl
@[simp] theorem issue_storage (i : Instr) (d : DSlot) : (issue i d s).storage = s.storage := rfl
@[simp] theorem issue_pt (i : Instr) (d : DSlot) : (issue i d s).pt = s.pt := rfl
@[simp] theorem issue_free (i : Instr) (d : DSlot) : (issue i d s).free = s.free := rfl
@[simp] theorem issue_ctr (i : Instr) (d : DSlot) : (issue i d s).ctr = s.ctr := rfl
@[simp] theorem issue_status (i : Instr) (d : DSlot) : (issue i d s).status = s.status := rfl
@[simp] theorem issue_out (i : Instr) (d : DSlot) : (issue i d s).out = s.out := rfl
@[simp] theorem issue_input (i : Instr) (d : DSlot) : (issue i d s).input = s.input := rfl
@[simp] theorem issue_inputPos (i : Instr) (d : DSlot) : (issue i d s).inputPos = s.inputPos := rfl
@[simp] theorem issue_sig (i : Instr) (d : DSlot) : (issue i d s).sig = s.sig := rfl

/-! ### `afterFetch` -/

@[simp] theorem afterFetch_cfg (pc : Word) (w : InstrWord) : (afterFetch pc w s).cfg = s.cfg := rfl
@[simp] theorem afterFetch_regs (pc : Word) (w : InstrWord) : (afterFetch pc w s).regs = s.regs := rfl
@[simp] theorem afterFetch_fCur (pc : Word) (w : InstrWord) : (afterFetch pc w s).fCur = s.fCur := rfl
@[simp] theorem afterFetch_fNxt (pc : Word) (w : InstrWord) : (afterFetch pc w s).fNxt = { pc := (nextFetch s pc (preDecode w)).next, bubble := (nextFetch s pc (preDecode w)).block, stall := false } := rfl
@[simp] theorem afterFetch_dCur (pc : Word) (w : InstrWord) : (afterFetch pc w s).dCur = s.dCur := rfl
@[simp] theorem afterFetch_dNxt (pc : Word) (w : InstrWord) : (afterFetch pc w s).dNxt = Snap.of { pc := pc, word := w, predTaken := (nextFetch s pc (preDecode w)).predTaken, predNext := (nextFetch s pc (preDecode w)).next } := rfl
@[simp] theorem afterFetch_eCur (pc : Word) (w : InstrWord) : (afterFetch pc w s).eCur = s.eCur := rfl
@[simp] theorem afterFetch_eNxt (pc : Word) (w : InstrWord) : (afterFetch pc w s).eNxt = s.eNxt := rfl
@[simp] theorem afterFetch_mCur (pc : Word) (w : InstrWord) : (afterFetch pc w s).mCur = s.mCur := rfl
@[simp] theorem afterFetch_mNxt (pc : Word) (w : InstrWord) : (afterFetch pc w s).mNxt = s.mNxt := rfl
@[simp] theorem afterFetch_wCur (pc : Word) (w : InstrWord) : (afterFetch pc w s).wCur = s.wCur := rfl
@[simp] theorem afterFetch_wNxt (pc : Word) (w : InstrWord) : (afterFetch pc w s).wNxt = s.wNxt := rfl
@[simp] theorem afterFetch_bht (pc : Word) (w : InstrWord) : (afterFetch pc w s).bht = s.bht := rfl
@[simp] theorem afterFetch_storage (pc : Word) (w : InstrWord) : (afterFetch pc w s).storage = s.storage := rfl
@[simp] theorem afterFetch_pt (pc : Word) (w : InstrWord) : (afterFetch pc w s).pt = s.pt := rfl
@[simp] theorem afterFetch_free (pc : Word) (w : InstrWord) : (afterFetch pc w s).free = s.free := rfl
@[simp] theorem afterFetch_ctr (pc : Word) (w : InstrWord) : (afterFetch pc w s).ctr = s.ctr := rfl
@[simp] theorem afterFetch_status (pc : Word) (w : InstrWord) : (afterFetch pc w s).status = s.status := rfl
@[simp] theorem afterFetch_out (pc : Word) (w : InstrWord) : (afterFetch pc w s).out = s.out := rfl
@[simp] theorem afterFetch_input (pc : Word) (w : InstrWord) : (afterFetch pc w s).input = s.input := rfl
@[simp] theorem afterFetch_inputPos (pc : Word) (w : InstrWord) : (afterFetch pc w s).inputPos = s.inputPos := rfl
@[simp] theorem afterFetch_sig (pc : Word) (w : InstrWord) : (afterFetch pc w s).sig = s.sig := rfl

/-! ### `updatePipeline` -/

@[simp] theorem updatePipeline_cfg : (updatePipeline s).cfg = s.cfg := rfl
@[simp] theorem updatePipeline_regs : (updatePipeline s).regs = s.regs := rfl
@[simp] theorem updatePipeline_fCur : (updatePipeline s).fCur = if s.fNxt.stall then s.fCur else { s.fNxt with stall := false } := rfl
@[simp] theorem updatePipeline_fNxt : (updatePipeline s).fNxt = s.fNxt := rfl
@[simp] theorem updatePipeline_dCur : (updatePipeline s).dCur = if s.dNxt.stall then s.dCur else { s.dNxt with stall := false } := rfl
@[simp] theorem updatePipeline_dNxt : (updatePipeline s).dNxt = s.dNxt := rfl
@[simp] theorem updatePipeline_eCur : (updatePipeline s).eCur = s.eNxt := rfl
@[simp] theorem updatePipeline_eNxt : (updatePipeline s).eNxt = s.eNxt := rfl
@[simp] theorem updatePipeline_mCur : (updatePipeline s).mCur = s.mNxt := rfl
@[simp] theorem updatePipeline_mNxt : (updatePipeline s).mNxt = s.mNxt := rfl
@[simp] theorem updatePipeline_wCur : (updatePipeline s).wCur = s.wNxt := rfl
@[simp] theorem updatePipeline_wNxt : (updatePipeline s).wNxt = s.wNxt := rfl
@[simp] theorem updatePipeline_bht : (updatePipeline s).bht = s.bht := rfl
@[simp] theorem updatePipeline_storage : (updatePipeline s).storage = s.storage := rfl
@[simp] theorem updatePipeline_pt : (updatePipeline s).pt = s.pt := rfl
@[simp] theorem updatePipeline_free : (updatePipeline s).free = s.free := rfl
@[simp] theorem updatePipeline_ctr : (updatePipeline s).ctr = { s.ctr with steps := s.ctr.steps + 1, cycleCount := s.ctr.cycleCount + cycleCost s } := rfl
@[simp] theorem updatePipeline_status : (updatePipeline s).status = s.status := rfl
@[simp] theorem updatePipeline_out : (updatePipeline s).out = s.out := rfl
@[simp] theorem updatePipeline_input : (updatePipeline s).input = s.input := rfl
@[simp] theorem updatePipeline_inputPos : (updatePipeline s).inputPos = s.inputPos := rfl
@[simp] theorem updatePipeline_sig : (updatePipeline s).sig = Signals.idle := rfl

/-! ### `sysExit` -/

@[simp] theorem sysExit_cfg (a0 : Word) : (sysExit a0 s).cfg = s.cfg := rfl
@[simp] theorem sysExit_regs (a0 : Word) : (sysExit a0 s).regs = s.regs := rfl
@[simp] theorem sysExit_fCur (a0 : Word) : (sysExit a0 s).fCur = s.fCur := rfl
@[simp] theorem sysExit_fNxt (a0 : Word) : (sysExit a0 s).fNxt = s.fNxt := rfl
@[simp] theorem sysExit_dCur (a0 : Word) : (sysExit a0 s).dCur = s.dCur := rfl
@[simp] theorem sysExit_dNxt (a0 : Word) : (sysExit a0 s).dNxt = s.dNxt := rfl
@[simp] theorem sysExit_eCur (a0 : Word) : (sysExit a0 s).eCur = s.eCur := rfl
@[simp] theorem sysExit_eNxt (a0 : Word) : (sysExit a0 s).eNxt = s.eNxt := rfl
@[simp] theorem sysExit_mCur (a0 : Word) : (sysExit a0 s).mCur = s.mCur := rfl
@[simp] theorem sysExit_mNxt (a0 : Word) : (sysExit a0 s).mNxt = s.mNxt := rfl
@[simp] theorem sysExit_wCur (a0 : Word) : (sysExit a0 s).wCur = s.wCur := rfl
@[simp] theorem sysExit_wNxt (a0 : Word) : (sysExit a0 s).wNxt = s.wNxt := rfl
@[simp] theorem sysExit_bht (a0 : Word) : (sysExit a0 s).bht = s.bht := rfl
@[simp] theorem sysExit_storage (a0 : Word) : (sysExit a0 s).storage = s.storage := rfl
@[simp] theorem sysExit_pt (a0 : Word) : (sysExit a0 s).pt = s.pt := rfl
@[simp] theorem sysExit_free (a0 : Word) : (sysExit a0 s).free = s.free := rfl
@[simp] theorem sysExit_ctr (a0 : Word) : (sysExit a0 s).ctr = s.ctr := rfl
@[simp] theorem sysExit_status (a0 : Word) : (sysExit a0 s).status = .exited := rfl
@[simp] theorem sysExit_out (a0 : Word) : (sysExit a0 s).out = s.out ++ [.exit a0] := rfl
@[simp] theorem sysExit_input (a0 : Word) : (sysExit a0 s).input = s.input := rfl
@[simp] theorem sysExit_inputPos (a0 : Word) : (sysExit a0 s).inputPos = s.inputPos := rfl
@[simp] theorem sysExit_sig (a0 : Word) : (sysExit a0 s).sig = s.sig := rfl

/-! ### `retire` -/

@[simp] theorem retire_cfg (next : Word) : (s.retire next).cfg = s.cfg := rfl
@[simp] theorem retire_regs (next : Word) : (s.retire next).regs = s.regs := rfl
@[simp] theorem retire_fCur (next : Word) : (s.retire next).fCur = { s.fCur with pc := next } := rfl
@[simp] theorem retire_fNxt (next : Word) : (s.retire next).fNxt = s.fNxt := rfl
@[simp] theorem retire_dCur (next : Word) : (s.retire next).dCur = s.dCur := rfl
@[simp] theorem retire_dNxt (next : Word) : (s.retire next).dNxt = s.dNxt := rfl
@[simp] theorem retire_eCur (next : Word) : (s.retire next).eCur = s.eCur := rfl
@[simp] theorem retire_eNxt (next : Word) : (s.retire next).eNxt = s.eNxt := rfl
@[simp] theorem retire_mCur (next : Word) : (s.retire next).mCur = s.mCur := rfl
@[simp] theorem retire_mNxt (next : Word) : (s.retire next).mNxt = s.mNxt := rfl
@[simp] theorem retire_wCur (next : Word) : (s.retire next).wCur = s.wCur := rfl
@[simp] theorem retire_wNxt (next : Word) : (s.retire next).wNxt = s.wNxt := rfl
@[simp] theorem retire_bht (next : Word) : (s.retire next).bht = s.bht := rfl
@[simp] theorem retire_storage (next : Word) : (s.retire next).storage = s.storage := rfl
@[simp] theorem retire_pt (next : Word) : (s.retire next).pt = s.pt := rfl
@[simp] theorem retire_free (next : Word) : (s.retire next).free = s.free := rfl
@[simp] theorem retire_ctr (next : Word) : (s.retire next).ctr = { s.ctr with instCount := s.ctr.instCount + 1 } := rfl
@[simp] theorem retire_status (next : Word) : (s.retire next).status = s.status := rfl
@[simp] theorem retire_out (next : Word) : (s.retire next).out = s.out := rfl
@[simp] theorem retire_input (next : Word) : (s.retire next).input = s.input := rfl
@[simp] theorem retire_inputPos (next : Word) : (s.retire next).inputPos = s.inputPos := rfl
@[simp] theorem retire_sig (next : Word) : (s.retire next).sig = s.sig := rfl

/-! ### `writeReg`: what it leaves alone -/

@[simp] theorem writeReg_cfg (r : Reg) (v : Word) : (writeReg r v s).cfg = s.cfg := by unfold writeReg; split <;> rfl
@[simp] theorem writeReg_fCur (r : Reg) (v : Word) : (writeReg r v s).fCur = s.fCur := by unfold writeReg; split <;> rfl
@[simp] theorem writeReg_fNxt (r : Reg) (v : Word) : (writeReg r v s).fNxt = s.fNxt := by unfold writeReg; split <;> rfl
@[simp] theorem writeReg_dCur (r : Reg) (v : Word) : (writeReg r v s).dCur = s.dCur := by unfold writeReg; split <;> rfl
@[simp] theorem writeReg_dNxt (r : Reg) (v : Word) : (writeReg r v s).dNxt = s.dNxt := by unfold writeReg; split <;> rfl
@[simp] theorem writeReg_eCur (r : Reg) (v : Word) : (writeReg r v s).eCur = s.eCur := by unfold writeReg; split <;> rfl
@[simp] theorem writeReg_eNxt (r : Reg) (v : Word) : (writeReg r v s).eNxt = s.eNxt := by unfold writeReg; split <;> rfl
@[simp] theorem writeReg_mCur (r : Reg) (v : Word) : (writeReg r v s).mCur = s.mCur := by unfold writeReg; split <;> rfl
@[simp] theorem writeReg_mNxt (r : Reg) (v : Word) : (writeReg r v s).mNxt = s.mNxt := by unfold writeReg; split <;> rfl
@[simp] theorem writeReg_wCur (r : Reg) (v : Word) : (writeReg r v s).wCur = s.wCur := by unfold writeReg; split <;> rfl
@[simp] theorem writeReg_wNxt (r : Reg) (v : Word) : (writeReg r v s).wNxt = s.wNxt := by unfold writeReg; split <;> rfl
@[simp] theorem writeReg_bht (r : Reg) (v : Word) : (writeReg r v s).bht = s.bht := by unfold writeReg; split <;> rfl
@[simp] theorem writeReg_storage (r : Reg) (v : Word) : (writeReg r v s).storage = s.storage := by unfold writeReg; split <;> rfl
@[simp] theorem writeReg_pt (r : Reg) (v : Word) : (writeReg r v s).pt = s.pt := by unfold writeReg; split <;> rfl
@[simp] theorem writeReg_free (r : Reg) (v : Word) : (writeReg r v s).free = s.free := by unfold writeReg; split <;> rfl
@[simp] theorem writeReg_ctr (r : Reg) (v : Word) : (writeReg r v s).ctr = s.ctr := by unfold writeReg; split <;> rfl
@[simp] theorem writeReg_status (r : Reg) (v : Word) : (writeReg r v s).status = s.status := by unfold writeReg; split <;> rfl
@[simp] theorem writeReg_out (r : Reg) (v : Word) : (writeReg r v s).out = s.out := by unfold writeReg; split <;> rfl
@[simp] theorem writeReg_input (r : Reg) (v : Word) : (writeReg r v s).input = s.input := by unfold writeReg; split <;> rfl
@[simp] theorem writeReg_inputPos (r : Reg) (v : Word) : (writeReg r v s).inputPos = s.inputPos := by unfold writeReg; split <;> rfl
@[simp] theorem writeReg_sig (r : Reg) (v : Word) : (writeReg r v s).sig = s.sig := by unfold writeReg; split <;> rfl

/-! ### `writeDst`: what it leaves alone -/

@[simp] theorem writeDst_cfg (d : Option Reg) (v : Word) : (writeDst d v s).cfg = s.cfg := by cases d <;> simp [writeDst]
@[simp] theorem writeDst_fCur (d : Option Reg) (v : Word) : (writeDst d v s).fCur = s.fCur := by cases d <;> simp [writeDst]
@[simp] theorem writeDst_fNxt (d : Option Reg) (v : Word) : (writeDst d v s).fNxt = s.fNxt := by cases d <;> simp [writeDst]
@[simp] theorem writeDst_dCur (d : Option Reg) (v : Word) : (writeDst d v s).dCur = s.dCur := by cases d <;> simp [writeDst]
@[simp] theorem writeDst_dNxt (d : Option Reg) (v : Word) : (writeDst d v s).dNxt = s.dNxt := by cases d <;> simp [writeDst]
@[simp] theorem writeDst_eCur (d : Option Reg) (v : Word) : (writeDst d v s).eCur = s.eCur := by cases d <;> simp [writeDst]
@[simp] theorem writeDst_eNxt (d : Option Reg) (v : Word) : (writeDst d v s).eNxt = s.eNxt := by cases d <;> simp [writeDst]
@[simp] theorem writeDst_mCur (d : Option Reg) (v : Word) : (writeDst d v s).mCur = s.mCur := by cases d <;> simp [writeDst]
@[simp] theorem writeDst_mNxt (d : Option Reg) (v : Word) : (writeDst d v s).mNxt = s.mNxt := by cases d <;> simp [writeDst]
@[simp] theorem writeDst_wCur (d : Option Reg) (v : Word) : (writeDst d v s).wCur = s.wCur := by cases d <;> simp [writeDst]
@[simp] theorem writeDst_wNxt (d : Option Reg) (v : Word) : (writeDst d v s).wNxt = s.wNxt := by cases d <;> simp [writeDst]
@[simp] theorem writeDst_bht (d : Option Reg) (v : Word) : (writeDst d v s).bht = s.bht := by cases d <;> simp [writeDst]
@[simp] theorem writeDst_storage (d : Option Reg) (v : Word) : (writeDst d v s).storage = s.storage := by cases d <;> simp [writeDst]
@[simp] theorem writeDst_pt (d : Option Reg) (v : Word) : (writeDst d v s).pt = s.pt := by cases d <;> simp [writeDst]
@[simp] theorem writeDst_free (d : Option Reg) (v : Word) : (writeDst d v s).free = s.free := by cases d <;> simp [writeDst]
@[simp] theorem writeDst_ctr (d : Option Reg) (v : Word) : (writeDst d v s).ctr = s.ctr := by cases d <;> simp [writeDst]
@[simp] theorem writeDst_status (d : Option Reg) (v : Word) : (writeDst d v s).status = s.status := by cases d <;> simp [writeDst]
@[simp] theorem writeDst_out (d : Option Reg) (v : Word) : (writeDst d v s).out = s.out := by cases d <;> simp [writeDst]
@[simp] theorem writeDst_input (d : Option Reg) (v : Word) : (writeDst d v s).input = s.input := by cases d <;> simp [writeDst]
@[simp] theorem writeDst_inputPos (d : Option Reg) (v : Word) : (writeDst d v s).inputPos = s.inputPos := by cases d <;> simp [writeDst]
@[simp] theorem writeDst_sig (d : Option Reg) (v : Word) : (writeDst d v s).sig = s.sig := by cases d <;> simp [writeDst]

/-! ### `forward`: what it leaves alone -/

@[simp] theorem forward_cfg (d : Option Reg) (v : Word) : (forward d v s).cfg = s.cfg := by unfold forward; split <;> rfl
@[simp] theorem forward_regs (d : Option Reg) (v : Word) : (forward d v s).regs = s.regs := by unfold forward; split <;> rfl
@[simp] theorem forward_fCur (d : Option Reg) (v : Word) : (forward d v s).fCur = s.fCur := by unfold forward; split <;> rfl
@[simp] theorem forward_fNxt (d : Option Reg) (v : Word) : (forward d v s).fNxt = s.fNxt := by unfold forward; split <;> rfl
@[simp] theorem forward_dCur (d : Option Reg) (v : Word) : (forward d v s).dCur = s.dCur := by unfold forward; split <;> rfl
@[simp] theorem forward_dNxt (d : Option Reg) (v : Word) : (forward d v s).dNxt = s.dNxt := by unfold forward; split <;> rfl
@[simp] theorem forward_eCur (d : Option Reg) (v : Word) : (forward d v s).eCur = s.eCur := by unfold forward; split <;> rfl
@[simp] theorem forward_mCur (d : Option Reg) (v : Word) : (forward d v s).mCur = s.mCur := by unfold forward; split <;> rfl
@[simp] theorem forward_mNxt (d : Option Reg) (v : Word) : (forward d v s).mNxt = s.mNxt := by unfold forward; split <;> rfl
@[simp] theorem forward_wCur (d : Option Reg) (v : Word) : (forward d v s).wCur = s.wCur := by unfold forward; split <;> rfl
@[simp] theorem forward_wNxt (d : Option Reg) (v : Word) : (forward d v s).wNxt = s.wNxt := by unfold forward; split <;> rfl
@[simp] theorem forward_bht (d : Option Reg) (v : Word) : (forward d v s).bht = s.bht := by unfold forward; split <;> rfl
@[simp] theorem forward_storage (d : Option Reg) (v : Word) : (forward d v s).storage = s.storage := by unfold forward; split <;> rfl
@[simp] theorem forward_pt (d : Option Reg) (v : Word) : (forward d v s).pt = s.pt := by unfold forward; split <;> rfl
@[simp] theorem forward_free (d : Option Reg) (v : Word) : (forward d v s).free = s.free := by unfold forward; split <;> rfl
@[simp] theorem forward_ctr (d : Option Reg) (v : Word) : (forward d v s).ctr = s.ctr := by unfold forward; split <;> rfl
@[simp] theorem forward_status (d : Option Reg) (v : Word) : (forward d v s).status = s.status := by unfold forward; split <;> rfl
@[simp] theorem forward_out (d : Option Reg) (v : Word) : (forward d v s).out = s.out := by unfold forward; split <;> rfl
@[simp] theorem forward_input (d : Option Reg) (v : Word) : (forward d v s).input = s.input := by unfold forward; split <;> rfl
@[simp] theorem forward_inputPos (d : Option Reg) (v : Word) : (forward d v s).inputPos = s.inputPos := by unfold forward; split <;> rfl

/-! ### `nextInput`: what it leaves alone -/

@[simp] theorem nextInput_cfg : ((nextInput s).2).cfg = s.cfg := by unfold nextInput; split <;> rfl
@[simp] theorem nextInput_regs : ((nextInput s).2).regs = s.regs := by unfold nextInput; split <;> rfl
@[simp] theorem nextInput_fCur : ((nextInput s).2).fCur = s.fCur := by unfold nextInput; split <;> rfl
@[simp] theorem nextInput_fNxt : ((nextInput s).2).fNxt = s.fNxt := by unfold nextInput; split <;> rfl
@[simp] theorem nextInput_dCur : ((nextInput s).2).dCur = s.dCur := by unfold nextInput; split <;> rfl
@[simp] theorem nextInput_dNxt : ((nextInput s).2).dNxt = s.dNxt := by unfold nextInput; split <;> rfl
@[simp] theorem nextInput_eCur : ((nextInput s).2).eCur = s.eCur := by unfold nextInput; split <;> rfl
@[simp] theorem nextInput_eNxt : ((nextInput s).2).eNxt = s.eNxt := by unfold nextInput; split <;> rfl
@[simp] theorem nextInput_mCur : ((nextInput s).2).mCur = s.mCur := by unfold nextInput; split <;> rfl
@[simp] theorem nextInput_mNxt : ((nextInput s).2).mNxt = s.mNxt := by unfold nextInput; split <;> rfl
@[simp] theorem nextInput_wCur : ((nextInput s).2).wCur = s.wCur := by unfold nextInput; split <;> rfl
@[simp] theorem nextInput_wNxt : ((nextInput s).2).wNxt = s.wNxt := by unfold nextInput; split <;> rfl
@[simp] theorem nextInput_bht : ((nextInput s).2).bht = s.bht := by unfold nextInput; split <;> rfl
@[simp] theorem nextInput_storage : ((nextInput s).2).storage = s.storage := by unfold nextInput; split <;> rfl
@[simp] theorem nextInput_pt : ((nextInput s).2).pt = s.pt := by unfold nextInput; split <;> rfl
@[simp] theorem nextInput_free : ((nextInput s).2).free = s.free := by unfold nextInput; split <;> rfl
@[simp] theorem nextInput_ctr : ((nextInput s).2).ctr = s.ctr := by unfold nextInput; split <;> rfl
@[simp] theorem nextInput_status : ((nextInput s).2).status = s.status := by unfold nextInput; split <;> rfl
@[simp] theorem nextInput_out : ((nextInput s).2).out = s.out := by unfold nextInput; split <;> rfl
@[simp] theorem nextInput_sig : ((nextInput s).2).sig = s.sig := by unfold nextInput; split <;> rfl

end Sys2Proof.Machine
end

