-- ==== Sys2Proof/Laws/Registers.lean ====
section
/-! SUPPORT. Reading a register after a write (10_state.md R21, R22), and what leaves every register alone. -/

namespace Sys2Proof.Machine

@[simp] theorem readReg_zero (s : State) : readReg s 0#5 = 0 := by simp [readReg]

@[simp] theorem writeReg_zero (v : Word) (s : State) : writeReg 0#5 v s = s := by simp [writeReg]

/-- Reading depends on the register file alone. -/
theorem readReg_congr {s t : State} (h : t.regs = s.regs) (r : Reg) : readReg t r = readReg s r := by
  simp [readReg, h]

theorem readSrc_congr {s t : State} (h : t.regs = s.regs) (o : Option Reg) : readSrc t o = readSrc s o := by
  cases o with
  | none => rfl
  | some r => exact readReg_congr h r

theorem readReg_writeReg_same (s : State) {r : Reg} (h : r ≠ 0) (v : Word) : readReg (writeReg r v s) r = v := by
  rw [writeReg, if_neg h, readReg, if_neg h]
  exact Vector.getElem_set_self _

theorem readReg_writeReg_ne (s : State) {r q : Reg} (h : q ≠ r) (v : Word) :
    readReg (writeReg r v s) q = readReg s q := by
  have hne : r.toNat ≠ q.toNat := fun e => h (BitVec.eq_of_toNat_eq e.symm)
  by_cases hr : r = 0
  · rw [writeReg, if_pos hr]
  · rw [writeReg, if_neg hr]
    simp only [readReg]
    split
    · rfl
    · exact Vector.getElem_set_ne _ _ hne

/-- The one law of reading after writing, `x0` included. -/
theorem readReg_writeReg (s : State) (r q : Reg) (v : Word) :
    readReg (writeReg r v s) q = if q = r ∧ r ≠ 0 then v else readReg s q := by
  by_cases h : q = r
  · subst h
    by_cases h0 : q = 0
    · subst h0; simp
    · rw [if_pos ⟨rfl, h0⟩, readReg_writeReg_same s h0]
  · rw [if_neg fun e => h e.1, readReg_writeReg_ne s h]

@[simp] theorem readReg_retire (s : State) (next : Word) (r : Reg) : readReg (s.retire next) r = readReg s r := rfl

theorem readReg_retireWith (s : State) (d q : Reg) (v next : Word) :
    readReg (s.retireWith d v next) q = if q = d ∧ d ≠ 0 then v else readReg s q := by
  simp [State.retireWith, readReg_writeReg]

/-- Writing never touches the cell of `x0`. -/
theorem writeReg_cell_zero (r : Reg) (v : Word) (s : State) : (writeReg r v s).regs[0] = s.regs[0] := by
  unfold writeReg
  split
  · rfl
  · next h =>
    have : r.toNat ≠ 0 := fun e => h (BitVec.eq_of_toNat_eq (by simpa using e))
    exact Vector.getElem_set_ne r.isLt (by omega) this

theorem writeDst_cell_zero (d : Option Reg) (v : Word) (s : State) : (writeDst d v s).regs[0] = s.regs[0] := by
  cases d with
  | none => rfl
  | some r => exact writeReg_cell_zero r v s

end Sys2Proof.Machine
end

