-- ==== Sys2Proof/Laws/Meaning.lean ====
section
/-! SUPPORT. Every instruction's `exec` is `live` of its meaning, and what the meanings ask of each stage. -/

namespace Sys2Proof.Machine

/-- The meaning that the dispatch gives an instruction. -/
def meaningOf : Instr → Meaning
  | .lui _ imm => ofPc fun _ => immU imm
  | .auipc _ imm => ofPc fun pc => pc + immU imm
  | .jal _ _ => linking
  | .jalr _ _ imm => jumpingTo imm
  | .beq _ _ off => branchOn condEq off
  | .bne _ _ off => branchOn condNe off
  | .blt _ _ off => branchOn condLt off
  | .bge _ _ off => branchOn condGe off
  | .bltu _ _ off => branchOn condLtu off
  | .bgeu _ _ off => branchOn condGeu off
  | .lb _ _ imm => loading 1 true imm
  | .lh _ _ imm => loading 2 true imm
  | .lw _ _ imm => loading 4 true imm
  | .ld _ _ imm => loading 8 true imm
  | .lbu _ _ imm => loading 1 false imm
  | .lhu _ _ imm => loading 2 false imm
  | .lwu _ _ imm => loading 4 false imm
  | .sb _ _ imm => storing 1 imm
  | .sh _ _ imm => storing 2 imm
  | .sw _ _ imm => storing 4 imm
  | .sd _ _ imm => storing 8 imm
  | .addi _ _ imm => ofReg fun a => a + immI imm
  | .slti _ _ imm => ofReg fun a => flagWord (condLt a (immI imm))
  | .sltiu _ _ imm => ofReg fun a => flagWord (condLtu a (immI imm))
  | .xori _ _ imm => ofReg fun a => a ^^^ immI imm
  | .ori _ _ imm => ofReg fun a => a ||| immI imm
  | .andi _ _ imm => ofReg fun a => a &&& immI imm
  | .slli _ _ shamt => ofReg fun a => a <<< shamt.toNat
  | .srli _ _ shamt => ofReg fun a => a >>> shamt.toNat
  | .srai _ _ shamt => ofReg fun a => a.sshiftRight shamt.toNat
  | .add _ _ _ => ofRegs fun a b => a + b
  | .sub _ _ _ => ofRegs fun a b => a - b
  | .sll _ _ _ => ofRegs fun a b => a <<< amount6 b
  | .slt _ _ _ => ofRegs fun a b => flagWord (condLt a b)
  | .sltu _ _ _ => ofRegs fun a b => flagWord (condLtu a b)
  | .xor _ _ _ => ofRegs fun a b => a ^^^ b
  | .srl _ _ _ => ofRegs fun a b => a >>> amount6 b
  | .sra _ _ _ => ofRegs fun a b => a.sshiftRight (amount6 b)
  | .or _ _ _ => ofRegs fun a b => a ||| b
  | .and _ _ _ => ofRegs fun a b => a &&& b
  | .mul _ _ _ => ofRegs fun a b => a * b
  | .mulh _ _ _ => ofRegs fun a b => mulHigh a b
  | .div _ _ _ => dividing divSigned divCornerResult
  | .rem _ _ _ => dividing remSigned remCornerResult
  | .addiw _ _ imm => ofReg fun a => w32 (a + immI imm)
  | .slliw _ _ shamt => ofReg fun a => sext32 (low32 a <<< shamt.toNat)
  | .srliw _ _ shamt => ofReg fun a => sext32 (low32 a >>> shamt.toNat)
  | .sraiw _ _ shamt => ofReg fun a => w32 ((sext32 (low32 a)).sshiftRight shamt.toNat)
  | .addw _ _ _ => ofRegs fun a b => w32 (a + b)
  | .subw _ _ _ => ofRegs fun a b => w32 (a - b)
  | .sllw _ _ _ => ofRegs fun a b => sext32 (low32 a <<< amount5 b)
  | .srlw _ _ _ => ofRegs fun a b => sext32 (low32 a >>> amount5 b)
  | .sraw _ _ _ => ofRegs fun a b => w32 ((sext32 (low32 a)).sshiftRight (amount5 b))
  | .ecall => calling

theorem exec_eq_live (i : Instr) (s : State) : exec i s = live i (meaningOf i) s := by cases i <;> rfl

/-! ### What an instruction asks of the stages -/

theorem retire_syscall_iff (i : Instr) : (meaningOf i).retire = .syscall ↔ i = .ecall := by
  cases i <;> simp [meaningOf, ofReg, ofRegs, ofPc, dividing, branchOn, linking, jumpingTo, loading, storing, calling]

theorem retire_branch_iff (i : Instr) : (meaningOf i).retire = .branch ↔ i.isBranch = true := by
  cases i <;> simp [meaningOf, ofReg, ofRegs, ofPc, dividing, branchOn, linking, jumpingTo, loading, storing, calling, Instr.isBranch]

theorem issue_drain_iff (i : Instr) : (meaningOf i).issue = .drain ↔ i = .ecall := by
  cases i <;> simp [meaningOf, ofReg, ofRegs, ofPc, dividing, branchOn, linking, jumpingTo, loading, storing, calling]

theorem issue_block_iff (i : Instr) : (meaningOf i).issue = .block ↔ i.isJalr = true := by
  cases i <;> simp [meaningOf, ofReg, ofRegs, ofPc, dividing, branchOn, linking, jumpingTo, loading, storing, calling, Instr.isJalr]

/-- The access of a load or a store is the one its class names (R92). -/
theorem mem_eq (i : Instr) : (meaningOf i).mem = match i.access with
    | none => .none
    | some ⟨true, n⟩ => .load n (match i with | .lbu _ _ _ | .lhu _ _ _ | .lwu _ _ _ => false | _ => true)
    | some ⟨false, n⟩ => .store n := by
  cases i <;> rfl

theorem dst_of_branch {i : Instr} (h : i.isBranch = true) : i.dst = none := by cases i <;> simp_all [Instr.isBranch, Instr.dst]

theorem isLoad_iff (i : Instr) : i.isLoad = true ↔ ∃ n, i.access = some ⟨true, n⟩ := by
  cases i <;> simp [Instr.isLoad, Instr.access]

end Sys2Proof.Machine
end

