-- ==== Sys2Proof/Laws/Memory.lean ====
section
/-! SUPPORT. The laws of physical memory: reading after writing, and the canonical form kept by every operation (20_memory.md R89,
R91). -/

namespace Sys2Proof.Machine

/-! ### One byte -/

theorem Memory.read_of_lt {m : Memory} {p : Nat} (h : ∀ c ∈ m, p < c.1) : m.read p = Memory.blank := by
  induction m with
  | nil => rfl
  | cons c m ih =>
    obtain ⟨a, b⟩ := c
    have ha : a ≠ p := by have := h (a, b) (by simp); simp at this; omega
    simp only [Memory.read, ha, if_false]
    exact ih fun c hc => h c (List.mem_cons_of_mem _ hc)

theorem Memory.mem_write {m : Memory} {p : Nat} {v : Byte} {c : Host.Cell} (h : c ∈ m.write p v) :
    c = (p, v) ∧ v ≠ Memory.blank ∨ c ∈ m := by
  induction m with
  | nil => simp only [Memory.write] at h; split at h <;> simp_all
  | cons d m ih =>
    obtain ⟨a, b⟩ := d
    simp only [Memory.write] at h
    split at h
    · split at h
      · exact .inr h
      · rcases List.mem_cons.mp h with rfl | h
        · exact .inl ⟨rfl, ‹_›⟩
        · exact .inr h
    · split at h
      · split at h
        · exact .inr (List.mem_cons_of_mem _ h)
        · rcases List.mem_cons.mp h with rfl | h
          · exact .inl ⟨rfl, ‹_›⟩
          · exact .inr (List.mem_cons_of_mem _ h)
      · rcases List.mem_cons.mp h with rfl | h
        · exact .inr (by simp)
        · exact (ih h).imp_right (List.mem_cons_of_mem _)

theorem Memory.wf_nil : Memory.wf [] := by simp [Memory.wf]

theorem Memory.wf_tail {c : Host.Cell} {m : Memory} (h : Memory.wf (c :: m)) : Memory.wf m :=
  ⟨(List.pairwise_cons.mp h.1).2, fun d hd => h.2 d (List.mem_cons_of_mem _ hd)⟩

/-- A write keeps the canonical form. -/
theorem Memory.wf_write {m : Memory} (h : m.wf) (p : Nat) (v : Byte) : (m.write p v).wf := by
  induction m with
  | nil => simp only [Memory.write]; split <;> simp_all [Memory.wf]
  | cons d m ih =>
    obtain ⟨a, b⟩ := d
    have hlt := (List.pairwise_cons.mp h.1).1
    have hm := Memory.wf_tail h
    simp only [Memory.write]
    split
    · split
      · exact h
      · next hp hv =>
        refine ⟨List.pairwise_cons.mpr ⟨fun c hc => ?_, h.1⟩, fun c hc => ?_⟩
        · rcases List.mem_cons.mp hc with rfl | hc
          · exact hp
          · exact Nat.lt_trans hp (hlt c hc)
        · rcases List.mem_cons.mp hc with rfl | hc
          · exact hv
          · exact h.2 c hc
    · split
      · next hpa =>
        subst hpa
        split
        · exact hm
        · next hv =>
          refine ⟨List.pairwise_cons.mpr ⟨hlt, hm.1⟩, fun c hc => ?_⟩
          rcases List.mem_cons.mp hc with rfl | hc
          · exact hv
          · exact hm.2 c hc
      · next hp hne =>
        have hw := ih hm
        refine ⟨List.pairwise_cons.mpr ⟨fun c hc => ?_, hw.1⟩, fun c hc => ?_⟩
        · rcases Memory.mem_write hc with ⟨rfl, _⟩ | hc
          · show a < p; omega
          · exact hlt c hc
        · rcases List.mem_cons.mp hc with rfl | hc
          · exact h.2 _ (by simp)
          · exact hw.2 c hc

/-- A byte reads as it was last written, and every other byte as before. -/
theorem Memory.read_write {m : Memory} (h : m.wf) (p q : Nat) (v : Byte) :
    (m.write p v).read q = if q = p then v else m.read q := by
  induction m with
  | nil =>
    simp only [Memory.write]
    by_cases hv : v = Memory.blank
    · by_cases hq : q = p <;> simp [hv, hq, Memory.read]
    · by_cases hq : q = p
      · simp [hv, hq, Memory.read]
      · simp [hv, hq, Memory.read, Ne.symm hq]
  | cons d m ih =>
    obtain ⟨a, b⟩ := d
    have hlt := (List.pairwise_cons.mp h.1).1
    have hm := Memory.wf_tail h
    simp only [Memory.write]
    split
    · next hp =>
      have hread : Memory.read ((a, b) :: m) p = Memory.blank :=
        Memory.read_of_lt fun c hc => by
          rcases List.mem_cons.mp hc with rfl | hc
          · exact hp
          · exact Nat.lt_trans hp (hlt c hc)
      split
      · next hv =>
        by_cases hq : q = p
        · subst hq; simp [hv, hread]
        · simp [hq]
      · by_cases hq : q = p
        · subst hq; simp [Memory.read]
        · simp [hq, Memory.read, Ne.symm hq]
    · split
      · next hpa =>
        subst hpa
        split
        · next hv =>
          by_cases hq : q = p
          · subst hq; simp [hv, Memory.read_of_lt hlt]
          · simp [hq, Memory.read, Ne.symm hq]
        · by_cases hq : q = p
          · subst hq; simp [Memory.read]
          · simp [hq, Memory.read, Ne.symm hq]
      · next hp hne =>
        simp only [Memory.read]
        by_cases ha : a = q
        · subst ha; simp [Ne.symm hne]
        · simp [ha, ih hm]

/-! ### Several bytes -/

@[simp] theorem Memory.length_readBytes (m : Memory) (p n : Nat) : (m.readBytes p n).length = n := by
  simp [Memory.readBytes]

theorem Memory.getElem_readBytes (m : Memory) (p n k : Nat) (h : k < (m.readBytes p n).length) :
    (m.readBytes p n)[k] = m.read (p + k) := by
  simp [Memory.readBytes]

theorem Memory.wf_writeBytes (bs : List Byte) {m : Memory} (h : m.wf) (p : Nat) : (m.writeBytes p bs).wf := by
  induction bs generalizing m p with
  | nil => exact h
  | cons b bs ih => exact ih (Memory.wf_write h p b) (p + 1)

theorem Memory.mem_writeBytes (bs : List Byte) {m : Memory} {p : Nat} {c : Host.Cell} (h : c ∈ m.writeBytes p bs) :
    (p ≤ c.1 ∧ c.1 < p + bs.length) ∨ c ∈ m := by
  induction bs generalizing m p with
  | nil => exact .inr h
  | cons b bs ih =>
    rcases ih h with ⟨h1, h2⟩ | h
    · exact .inl ⟨by omega, by simp only [List.length_cons]; omega⟩
    · rcases Memory.mem_write h with ⟨rfl, _⟩ | h
      · exact .inl ⟨Nat.le_refl _, by simp⟩
      · exact .inr h

/-- The bytes written read back, and every byte outside them is as before. -/
theorem Memory.read_writeBytes (bs : List Byte) {m : Memory} (h : m.wf) (p q : Nat) :
    (m.writeBytes p bs).read q = if p ≤ q ∧ q < p + bs.length then bs.getD (q - p) Memory.blank else m.read q := by
  induction bs generalizing m p with
  | nil => simp only [Memory.writeBytes, List.length_nil]; rw [if_neg (by omega)]
  | cons b bs ih =>
    simp only [Memory.writeBytes, ih (Memory.wf_write h p b), Memory.read_write h, List.length_cons]
    by_cases hq : q = p
    · subst hq; simp
    · by_cases hin : p + 1 ≤ q ∧ q < p + 1 + bs.length
      · obtain ⟨k, rfl⟩ : ∃ k, q = p + 1 + k := ⟨q - (p + 1), by omega⟩
        rw [if_pos hin, if_pos (by omega)]
        have e1 : p + 1 + k - (p + 1) = k := by omega
        have e2 : p + 1 + k - p = k + 1 := by omega
        simp [e1, e2]
      · rw [if_neg hin, if_neg hq, if_neg (by omega)]

/-- Memory after a request in bounds stays within its size. -/
theorem Memory.sized_writeBytes {m : Memory} {size p : Nat} (bs : List Byte) (h : ∀ c ∈ m, c.1 < size)
    (hp : p + bs.length ≤ size) : ∀ c ∈ m.writeBytes p bs, c.1 < size := by
  intro c hc
  rcases Memory.mem_writeBytes bs hc with ⟨_, h2⟩ | hc
  · omega
  · exact h c hc

/-! ### Values and bytes -/

@[simp] theorem length_bytesOf (n : Nat) (v : Word) : (bytesOf n v).length = n := by simp [bytesOf]

theorem getElem_bytesOf (n : Nat) (v : Word) (k : Nat) (h : k < (bytesOf n v).length) :
    (bytesOf n v)[k] = v.extractLsb' (8 * k) 8 := by
  simp [bytesOf]

@[simp] theorem valueOf_nil : valueOf [] = 0 := rfl

theorem valueOf_cons (b : Byte) (bs : List Byte) : valueOf (b :: bs) = b.setWidth 64 ||| (valueOf bs <<< 8) := rfl

end Sys2Proof.Machine
end

