-- ==== Sys2Proof/Laws/Storage.lean ====
section
/-! SUPPORT. The storage chain: what a request can do to physical memory, and what one request at one level is made of
(20_memory.md R71 to R75, R89). -/

namespace Sys2Proof.Machine

@[simp] theorem push_pmem (lv : Level) (st : Storage) : (push lv st).pmem = st.pmem := rfl
@[simp] theorem push_levels (lv : Level) (st : Storage) : (push lv st).levels = lv :: st.levels := rfl
@[simp] theorem push_fresh (lv : Level) (st : Storage) : (push lv st).fresh = st.fresh := rfl
@[simp] theorem Reply.storage_ok (st : Storage) (b : List Byte) (h : Bool) (t : Nat) : (Reply.ok st b h t).storage = st := rfl
@[simp] theorem Reply.storage_bounds (st : Storage) (l : LayerName) (a n : Nat) : (Reply.bounds st l a n).storage = st := rfl

@[simp] theorem setLine_tick (lv : Level) (s w : Nat) (l : CacheLine) : (lv.setLine s w l).tick = lv.tick := rfl
@[simp] theorem setLine_accesses (lv : Level) (s w : Nat) (l : CacheLine) : (lv.setLine s w l).accesses = lv.accesses := rfl
@[simp] theorem setLine_hits (lv : Level) (s w : Nat) (l : CacheLine) : (lv.setLine s w l).hits = lv.hits := rfl
@[simp] theorem setLine_misses (lv : Level) (s w : Nat) (l : CacheLine) : (lv.setLine s w l).misses = lv.misses := rfl
@[simp] theorem setLine_writebacks (lv : Level) (s w : Nat) (l : CacheLine) : (lv.setLine s w l).writebacks = lv.writebacks := rfl
@[simp] theorem arrive_sets (lv : Level) (p : Bool) : (lv.arrive p).sets = lv.sets := rfl
@[simp] theorem countHit_sets (lv : Level) (p : Bool) : (lv.countHit p).sets = lv.sets := rfl
@[simp] theorem countMiss_sets (lv : Level) (p : Bool) : (lv.countMiss p).sets = lv.sets := rfl
@[simp] theorem countWriteback_sets (lv : Level) : lv.countWriteback.sets = lv.sets := rfl

/-! ### Memory, the terminal layer (R89) -/

theorem memHandle_bounds {cfg : Config} {r : Req} {st : Storage} (h : cfg.physMemSize < r.addr + r.bytes) :
    memHandle cfg r st = .bounds st .memory r.addr r.bytes := by simp [memHandle, h]

theorem memHandle_read {cfg : Config} {r : Req} {st : Storage} (h : r.addr + r.bytes ≤ cfg.physMemSize) (hr : r.isRead = true) :
    memHandle cfg r st = .ok st (st.pmem.readBytes r.addr r.bytes) true (cfg.memHitLat + cfg.memBusLat) := by
  simp [memHandle, Nat.not_lt.mpr h, hr]

theorem memHandle_write {cfg : Config} {r : Req} {st : Storage} (h : r.addr + r.bytes ≤ cfg.physMemSize) (hr : r.isRead = false) :
    memHandle cfg r st =
      .ok { st with pmem := st.pmem.writeBytes r.addr r.buf } r.buf true (cfg.memHitLat + cfg.memBusLat) := by
  simp [memHandle, Nat.not_lt.mpr h, hr]

/-! ### What every request keeps of physical memory -/

/-- A property of physical memory that the storage functions below keep if the layer below keeps it. -/
def KeepsMem (P : Memory → Prop) (f : Storage → Reply) : Prop := ∀ st, P st.pmem → P (f st).storage.pmem

theorem writeLine_keeps {P : Memory → Prop} {c : LevelCfg} {lower : Req → Storage → Reply} (hl : ∀ r, KeepsMem P (lower r))
    (r : Req) (lv : Level) (w : Nat) (line : CacheLine) (hit : Bool) (time : Nat) :
    KeepsMem P fun st => writeLine c lower r lv st w line hit time := by
  intro st h
  have hk := hl { r with isRead := false } st h
  simp only [writeLine]
  split
  · split <;> rename_i he <;> rw [he] at hk <;> simpa [failedLine] using hk
  · exact h

theorem hitPath_keeps {P : Memory → Prop} {c : LevelCfg} {lower : Req → Storage → Reply} (hl : ∀ r, KeepsMem P (lower r))
    (r : Req) (lv : Level) (w : Nat) : KeepsMem P fun st => hitPath c lower r lv st w := by
  intro st h
  simp only [hitPath]
  split
  · exact h
  · exact writeLine_keeps hl _ _ _ _ _ _ st h

theorem forwardMiss_keeps {P : Memory → Prop} {lower : Req → Storage → Reply} (hl : ∀ r, KeepsMem P (lower r)) (r : Req)
    (lv : Level) : KeepsMem P fun st => forwardMiss lower r lv st := by
  intro st h
  have hk := hl r st h
  simp only [forwardMiss]
  split <;> rename_i he <;> rw [he] at hk <;> exact hk

theorem writeback_keeps {P : Memory → Prop} {c : LevelCfg} {lower : Req → Storage → Reply} (hl : ∀ r, KeepsMem P (lower r))
    (r : Req) (old : CacheLine) : KeepsMem P fun st => writeback c lower r old st := by
  intro st h
  simp only [writeback]
  split
  · exact hl _ st h
  · exact h

theorem fillPath_keeps {P : Memory → Prop} {c : LevelCfg} {lower : Req → Storage → Reply} (hl : ∀ r, KeepsMem P (lower r))
    (r : Req) (lv : Level) (w twb : Nat) : KeepsMem P fun st => fillPath c lower r lv st w twb := by
  intro st h
  have hk := hl { addr := c.base r.addr, bytes := c.lineSize, isRead := true, buf := [], isPrefetch := r.isPrefetch } st h
  simp only [fillPath]
  split <;> rename_i he <;> rw [he] at hk
  · simpa [failedLine] using hk
  · split
    · exact hk
    · exact writeLine_keeps hl _ _ _ _ _ _ _ hk

theorem allocate_keeps {P : Memory → Prop} {c : LevelCfg} {lower : Req → Storage → Reply} (hl : ∀ r, KeepsMem P (lower r))
    (r : Req) (lv : Level) : KeepsMem P fun st => allocate c lower r lv st := by
  intro st h
  have hk := writeback_keeps (c := c) hl r (lv.line (c.set r.addr) (victim c.method (lv.ways (c.set r.addr)))) st h
  simp only [allocate]
  split <;> rename_i he <;> simp only [he] at hk
  · exact hk
  · exact fillPath_keeps hl _ _ _ _ _ hk

theorem serve_keeps {P : Memory → Prop} {i : Nat} {c : LevelCfg} {lower : Req → Storage → Reply}
    (hl : ∀ r, KeepsMem P (lower r)) (r : Req) (lv : Level) : KeepsMem P fun st => serve i c lower r lv st := by
  intro st h
  simp only [serve]
  split
  · exact h
  · split
    · exact hitPath_keeps hl _ _ _ st h
    · split
      · exact forwardMiss_keeps hl _ _ st h
      · exact allocate_keeps hl _ _ st h

theorem prefetchLoop_keeps {P : Memory → Prop} {cfg : Config} {c : LevelCfg} {self : Req → Storage → Reply}
    (hs : ∀ r, KeepsMem P (self r)) (base n k : Nat) : KeepsMem P fun st => prefetchLoop cfg c self base n k st := by
  induction n generalizing k with
  | zero => exact fun st h => h
  | succ n ih =>
    intro st h
    have hk := hs { addr := base + k * c.lineSize, bytes := c.lineSize, isRead := true, buf := [], isPrefetch := true } st h
    simp only [prefetchLoop]
    split
    · exact h
    · split <;> rename_i he <;> rw [he] at hk
      · exact ih _ _ hk
      · exact hk

theorem withPrefetch_keeps {P : Memory → Prop} {cfg : Config} {c : LevelCfg} {self : Req → Storage → Reply}
    (hs : ∀ r, KeepsMem P (self r)) (r : Req) (rep : Reply) (h : P rep.storage.pmem) :
    P (withPrefetch cfg c self r rep).storage.pmem := by
  cases rep with
  | bounds st l a n => exact h
  | ok st buf hit t =>
    simp only [withPrefetch]
    split
    · exact h
    · have hk := prefetchLoop_keeps (cfg := cfg) (c := c) hs (c.base r.addr) (c.prefetch - 1) 1 st h
      split <;> rename_i he <;> simp only [he] at hk <;> exact hk

/-- Whatever every write into memory keeps, every request keeps. -/
theorem handle_keeps {P : Memory → Prop} (hP : ∀ m p bs, P m → P (m.writeBytes p bs)) (cfg : Config) (cs : List LevelCfg)
    (i : Nat) (r : Req) : KeepsMem P (handle cfg i cs r) := by
  have hmem : ∀ r, KeepsMem P (memHandle cfg r) := by
    intro r st h
    simp only [memHandle]
    split
    · exact h
    · split
      · exact h
      · exact hP _ _ _ h
  induction cs generalizing i r with
  | nil => exact hmem r
  | cons c cs ih =>
    intro st h
    simp only [handle]
    apply withPrefetch_keeps
    · intro r' st' h'
      dsimp only
      split
      · exact hmem r' st' h'
      · exact serve_keeps (ih (i + 1)) r' _ { st' with levels := _ } h'
    · split
      · exact hmem r st h
      · exact serve_keeps (ih (i + 1)) r _ { st with levels := _ } h

/-- A request at the top keeps the canonical form of memory. -/
theorem handleTop_canonical (cfg : Config) (r : Req) (st : Storage) (h : st.pmem.wf) : (handleTop cfg r st).storage.pmem.wf :=
  handle_keeps (P := fun m => m.wf) (fun _ p bs hm => Memory.wf_writeBytes bs hm p) cfg cfg.levels 1 r st h

/-- Reset memory is canonical. -/
theorem reset_canonical : State.reset.storage.pmem.wf := Memory.wf_nil

/-! ### One request at one level: the branches (R71 to R75) -/

/-- A request that does not fit a line raises before anything changes (R71). -/
theorem serve_crossing {i : Nat} {c : LevelCfg} {lower : Req → Storage → Reply} {r : Req} {lv : Level} {st : Storage}
    (h : c.lineSize < c.off r.addr + r.bytes) : serve i c lower r lv st = .bounds (push lv st) (.cache i) r.addr r.bytes := by
  simp [serve, h]

theorem serve_hit {i : Nat} {c : LevelCfg} {lower : Req → Storage → Reply} {r : Req} {lv : Level} {st : Storage} {w : Nat}
    (h : c.off r.addr + r.bytes ≤ c.lineSize) (hf : findHit (lv.ways (c.set r.addr)) (c.tag r.addr) = some w) :
    serve i c lower r lv st = hitPath c lower r ((lv.arrive r.isPrefetch).countHit r.isPrefetch) st w := by
  have hf' : findHit ((lv.arrive r.isPrefetch).ways (c.set r.addr)) (c.tag r.addr) = some w := hf
  simp only [serve, Nat.not_lt.mpr h, if_false, hf']

theorem serve_forward {i : Nat} {c : LevelCfg} {lower : Req → Storage → Reply} {r : Req} {lv : Level} {st : Storage}
    (h : c.off r.addr + r.bytes ≤ c.lineSize) (hf : findHit (lv.ways (c.set r.addr)) (c.tag r.addr) = none)
    (hr : r.isRead = false) (ha : c.wa = false) :
    serve i c lower r lv st = forwardMiss lower r ((lv.arrive r.isPrefetch).countMiss r.isPrefetch) st := by
  have hf' : findHit ((lv.arrive r.isPrefetch).ways (c.set r.addr)) (c.tag r.addr) = none := hf
  simp only [serve, Nat.not_lt.mpr h, if_false, hf', hr, ha, Bool.not_false, Bool.and_self, if_true]

theorem serve_allocate {i : Nat} {c : LevelCfg} {lower : Req → Storage → Reply} {r : Req} {lv : Level} {st : Storage}
    (h : c.off r.addr + r.bytes ≤ c.lineSize) (hf : findHit (lv.ways (c.set r.addr)) (c.tag r.addr) = none)
    (hr : r.isRead = true ∨ c.wa = true) :
    serve i c lower r lv st = allocate c lower r ((lv.arrive r.isPrefetch).countMiss r.isPrefetch) st := by
  have hf' : findHit ((lv.arrive r.isPrefetch).ways (c.set r.addr)) (c.tag r.addr) = none := hf
  have hc : (!r.isRead && !c.wa) = false := by rcases hr with hr | hr <;> simp [hr]
  simp only [serve, Nat.not_lt.mpr h, if_false, hf', hc, Bool.false_eq_true]

end Sys2Proof.Machine
end

