-- ==== Sys2Proof/Laws/Life.lean ====
section
/-! SUPPORT. One lemma per shared operation of the stages: everything it can do (70_reset_and_hazards.md R412, R423 to R428;
20_memory.md R60 to R64, R93 to R95; 43_system.md R261 to R270). -/

namespace Sys2Proof.Machine

/-! ### Translation and access -/

theorem translate_ok_iff {s : State} {v : Word} {n p : Nat} :
    translate s v n = .ok p ↔ misaligned s.cfg v n = false ∧
      ∃ e, lookupPage s.pt (v.toNat / s.cfg.pageSize) = some e ∧ e.valid = true ∧ p = physAddr s.cfg e v := by
  unfold translate
  split
  · next hm => simp [hm]
  · next hm =>
    have hm : misaligned s.cfg v n = false := by simpa using hm
    split
    · next e he =>
      split
      · next hv =>
        constructor
        · intro h
          injection h with h
          exact ⟨hm, e, he, hv, h.symm⟩
        · rintro ⟨-, e', he', -, rfl⟩
          rw [he] at he'
          injection he' with he'
          rw [he']
      · next hv =>
        constructor
        · intro h; cases h
        · rintro ⟨-, e', he', hv', -⟩
          rw [he] at he'
          injection he' with he'
          exact absurd (he' ▸ hv') hv
    · next he =>
      constructor
      · intro h; cases h
      · rintro ⟨-, e', he', -⟩
        rw [he] at he'
        cases he'

/-- Translation depends on the settings and the page table alone. -/
theorem translate_congr {s t : State} (hc : t.cfg = s.cfg) (hp : t.pt = s.pt) (v : Word) (n : Nat) :
    translate t v n = translate s v n := by
  simp [translate, hc, hp]

/-- What an access can do: serve and change the storage alone, or raise (R93 to R95, R304, R305, R307). -/
theorem access_cases {stage : Stage} {s : State} {v d : Word} {n : Nat} {rd : Bool} {o : AccessResult}
    (h : access stage s v n rd d = o) :
    (∃ k, translate s v n = .fail k ∧ o = .raised (raise (.translationError stage k v n) s)) ∨
    (∃ p st buf hit t, translate s v n = .ok p ∧
      handleTop s.cfg { addr := p, bytes := n, isRead := rd, buf := if rd then [] else bytesOf n d, isPrefetch := false } s.storage
        = .ok st buf hit t ∧ o = .ok { s with storage := st } (valueOf buf) t) ∨
    (∃ p st l a k, translate s v n = .ok p ∧
      handleTop s.cfg { addr := p, bytes := n, isRead := rd, buf := if rd then [] else bytesOf n d, isPrefetch := false } s.storage
        = .bounds st l a k ∧ o = .raised (raise (.boundsError l a k) { s with storage := st })) := by
  subst h
  unfold access
  split
  · next k hk => exact .inl ⟨k, hk, rfl⟩
  · next p hp =>
    split
    · next st buf hit t he => exact .inr (.inl ⟨p, st, buf, hit, t, hp, he, rfl⟩)
    · next st l a k he => exact .inr (.inr ⟨p, st, l, a, k, hp, he, rfl⟩)

/-! ### Execute -/

/-- What Execute can do (R423, R424). -/
theorem executeOp_cases {m : Meaning} {pc a b : Word} {guess : Bool} {s : State} {o : Executed}
    (h : executeOp m pc a b guess s = o) :
    (∃ e c, m.compute s.cfg pc a b = .value e c ∧ o = .done s e c true none) ∨
    (∃ taken actual, m.compute s.cfg pc a b = .branch taken actual ∧
      (taken = guess ∧ o = .done (updatePredictor pc taken s) 0 0 true none ∨
       taken ≠ guess ∧ o = .done (countHazard (updatePredictor pc taken s)) 0 0 false (some actual))) ∨
    (∃ target link, m.compute s.cfg pc a b = .jump target link ∧ o = .done (countHazard s) link 0 true (some target)) ∨
    (∃ k, m.compute s.cfg pc a b = .error k ∧ o = .raised (raise k s)) := by
  subst h
  unfold executeOp
  split
  · exact .inl ⟨_, _, ‹_›, rfl⟩
  · refine .inr (.inl ⟨_, _, ‹_›, ?_⟩)
    split
    · exact .inl ⟨‹_›, rfl⟩
    · exact .inr ⟨‹_›, rfl⟩
  · exact .inr (.inr (.inl ⟨_, _, ‹_›, rfl⟩))
  · exact .inr (.inr (.inr ⟨_, ‹_›, rfl⟩))

/-! ### MemoryAccess -/

/-- What MemoryAccess can do (R426). -/
theorem memoryOp_cases {m : Meaning} {e c : Word} {s : State} {o : Accessed} (h : memoryOp m e c s = o) :
    (m.mem = .none ∧ o = .done s e 1) ∨
    (∃ n signed s' v t, m.mem = .load n signed ∧ memRead s e n = .ok s' v t ∧ o = .done s' (extend n signed v) t) ∨
    (∃ n signed s', m.mem = .load n signed ∧ memRead s e n = .raised s' ∧ o = .raised s') ∨
    (∃ n s' v t, m.mem = .store n ∧ memWrite s e n c = .ok s' v t ∧ o = .done s' e t) ∨
    (∃ n s', m.mem = .store n ∧ memWrite s e n c = .raised s' ∧ o = .raised s') := by
  subst h
  unfold memoryOp
  split
  · exact .inl ⟨‹_›, rfl⟩
  · split
    · exact .inr (.inl ⟨_, _, _, _, _, ‹_›, ‹_›, rfl⟩)
    · exact .inr (.inr (.inl ⟨_, _, _, ‹_›, ‹_›, rfl⟩))
  · split
    · exact .inr (.inr (.inr (.inl ⟨_, _, _, _, ‹_›, ‹_›, rfl⟩)))
    · exact .inr (.inr (.inr (.inr ⟨_, _, ‹_›, ‹_›, rfl⟩)))

/-! ### System calls (R261 to R270) -/

/-- Everything a system call can do. -/
theorem syscall_cases (pc a0 a7 : Word) (s : State) :
    (a7 = 0 ∧ syscall pc a0 a7 s = emit (.printInt a0) s) ∨
    (a7 = 1 ∧ syscall pc a0 a7 s = emit (.printChar (a0.setWidth 8)) s) ∨
    (a7 = 2 ∧ ∃ bytes cut, scanStr s s.cfg.maxStrLen a0 [] = .str bytes cut ∧ syscall pc a0 a7 s = emit (.printStr bytes cut) s) ∨
    (a7 = 2 ∧ ∃ v, scanStr s s.cfg.maxStrLen a0 [] = .unmapped v ∧
      syscall pc a0 a7 s = raise (.translationError .writeBack .unmapped v 1) s) ∨
    ((a7 = 3 ∨ a7 = 4) ∧ syscall pc a0 a7 s = writeReg regA0 (nextInput s).1 (nextInput s).2) ∨
    (a7 = 93 ∧ syscall pc a0 a7 s = sysExit a0 s) ∨
    (a7 ≠ 0 ∧ a7 ≠ 1 ∧ a7 ≠ 2 ∧ a7 ≠ 3 ∧ a7 ≠ 4 ∧ a7 ≠ 93 ∧ syscall pc a0 a7 s = raise (.unknownSyscall pc a7) s) := by
  by_cases h0 : a7 = 0
  · exact .inl ⟨h0, by simp [syscall, h0, sysPrintInt]⟩
  by_cases h1 : a7 = 1
  · exact .inr (.inl ⟨h1, by simp [syscall, h1, sysPrintChar]⟩)
  by_cases h2 : a7 = 2
  · cases hs : scanStr s s.cfg.maxStrLen a0 [] with
    | str bytes cut => exact .inr (.inr (.inl ⟨h2, bytes, cut, rfl, by simp [syscall, h2, sysPrintStr, hs]⟩))
    | unmapped v => exact .inr (.inr (.inr (.inl ⟨h2, v, rfl, by simp [syscall, h2, sysPrintStr, hs]⟩)))
  by_cases h3 : a7 = 3
  · exact .inr (.inr (.inr (.inr (.inl ⟨.inl h3, by simp [syscall, h3, sysRead]⟩))))
  by_cases h4 : a7 = 4
  · exact .inr (.inr (.inr (.inr (.inl ⟨.inr h4, by simp [syscall, h4, sysRead]⟩))))
  by_cases h93 : a7 = 93
  · exact .inr (.inr (.inr (.inr (.inr (.inl ⟨h93, by simp [syscall, h93]⟩)))))
  · exact .inr (.inr (.inr (.inr (.inr (.inr ⟨h0, h1, h2, h3, h4, h93, by
      rw [syscall, if_neg h0, if_neg h1, if_neg h2, if_neg h3, if_neg h4, if_neg h93]⟩)))))

/-! ### The phases of `exec` -/

theorem exec_between {i : Instr} {s : State} (h : s.sig.phase = .between) : exec i s = .next (alone i (meaningOf i) s) := by
  rw [exec_eq_live, live, h]

theorem exec_decode (i : Instr) (s : State) : exec i (atPhase .decode s) = .next (decodePart i (meaningOf i) (atPhase .decode s)) := by
  rw [exec_eq_live]; rfl

theorem exec_execute (i : Instr) (s : State) :
    exec i (atPhase .execute s) = .next (executePart i (meaningOf i) (atPhase .execute s)) := by
  rw [exec_eq_live]; rfl

theorem exec_memory (i : Instr) (s : State) : exec i (atPhase .memory s) = .next (memoryPart (meaningOf i) (atPhase .memory s)) := by
  rw [exec_eq_live]; rfl

theorem exec_writeBack (i : Instr) (s : State) :
    exec i (atPhase .writeBack s) = .next (writeBackPart i (meaningOf i) (atPhase .writeBack s)) := by
  rw [exec_eq_live]; rfl

/-- `exec` always answers a next state: an error is a next state whose status says so (R302). -/
theorem exec_answers (i : Instr) (s : State) : ∃ t, exec i s = .next t := by
  rw [exec_eq_live]
  unfold live
  split <;> exact ⟨_, rfl⟩

end Sys2Proof.Machine
end

