-- ==== Sys2Proof/Laws/Loader.lean ====
section
/-! SUPPORT. What the loader can do, once (20_memory.md R65; 60_exceptions.md R309), and what `fillPipeline` leaves alone. -/

namespace Sys2Proof.Machine

/-- A loader that has raised gives no page. -/
theorem touchPage_of_fatal {s : State} (h : s.status.isFatal = true) (pick : Nat) (v : Word) : touchPage pick v s = s := by
  simp [touchPage, h]

/-- Touching a page leaves a raised machine or one with the page; else it allocates the page. -/
theorem touchPage_cases (pick : Nat) (v : Word) (s : State) :
    touchPage pick v s = s ∨
      s.status.isFatal = false ∧ touchPage pick v s = allocatePage pick (v.toNat / s.cfg.pageSize) s := by
  unfold touchPage
  split
  · exact .inl rfl
  · rename_i hf
    have hf : s.status.isFatal = false := by simpa using hf
    split
    · split
      · exact .inl rfl
      · exact .inr ⟨hf, rfl⟩
    · exact .inr ⟨hf, rfl⟩

/-- A loader that has raised places no byte. -/
theorem loadByte_of_fatal {s : State} (h : s.status.isFatal = true) (pick : Nat) (v : Word) (b : Byte) : loadByte pick v b s = s := by
  simp [loadByte, touchPage_of_fatal h, h]

/-- A loader that has raised does no further work: the machine stays `Fatal` of the page that failed (R309). -/
theorem loadBytes_of_fatal (pick : Nat) (bs : List Byte) : ∀ (v : Word) {s : State}, s.status.isFatal = true →
    loadBytes pick v bs s = s := by
  induction bs with
  | nil => intro v s _; rfl
  | cons b bs ih =>
    intro v s h
    simp only [loadBytes, loadByte_of_fatal h]
    exact ih _ h

/-! ### `fillPipeline` changes the registers `D`, `E`, `M` and `W` alone -/

variable (s : State)

@[simp] theorem fillPipeline_cfg : (fillPipeline s).cfg = s.cfg := rfl
@[simp] theorem fillPipeline_regs : (fillPipeline s).regs = s.regs := rfl
@[simp] theorem fillPipeline_fCur : (fillPipeline s).fCur = s.fCur := rfl
@[simp] theorem fillPipeline_bht : (fillPipeline s).bht = s.bht := rfl
@[simp] theorem fillPipeline_storage : (fillPipeline s).storage = s.storage := rfl
@[simp] theorem fillPipeline_pt : (fillPipeline s).pt = s.pt := rfl
@[simp] theorem fillPipeline_free : (fillPipeline s).free = s.free := rfl
@[simp] theorem fillPipeline_ctr : (fillPipeline s).ctr = s.ctr := rfl
@[simp] theorem fillPipeline_status : (fillPipeline s).status = s.status := rfl
@[simp] theorem fillPipeline_out : (fillPipeline s).out = s.out := rfl
@[simp] theorem fillPipeline_input : (fillPipeline s).input = s.input := rfl
@[simp] theorem fillPipeline_inputPos : (fillPipeline s).inputPos = s.inputPos := rfl
@[simp] theorem fillPipeline_sig : (fillPipeline s).sig = s.sig := rfl

end Sys2Proof.Machine
end

