-- ==== Sys2Proof/Laws/PerInstr.lean ====
section
/-! SUPPORT. Facts about every instruction as syntax, one lemma per constructor. Family `PreDecoded`: Fetch, which sees the opcode
alone, makes of an instruction's word what the instruction is (30_encoding.md R138). -/

namespace Sys2Proof.Laws.PreDecoded

open Sys2Proof.Machine

/-- Fetch's pre-decoding of the word of a well-formed instruction. -/
def Statement (i : Instr) : Prop := ∀ shamt6, i.wf shamt6 = true → preDecode (encode i) = i.fetchKind

theorem lui (rd : Reg) (imm : BitVec 20) : Statement (.lui rd imm) :=
  fun _ _ => by simp [preDecode, encode, Instr.fetchKind]

theorem auipc (rd : Reg) (imm : BitVec 20) : Statement (.auipc rd imm) :=
  fun _ _ => by simp [preDecode, encode, Instr.fetchKind]

theorem jal (rd : Reg) (off : BitVec 21) : Statement (.jal rd off) :=
  fun _ h => by
    simp only [Instr.wf, Bool.not_eq_true'] at h
    simp [preDecode, encode, immUJOf_packUJ _ _ _ h, Instr.fetchKind]

theorem jalr (rd rs1 : Reg) (imm : BitVec 12) : Statement (.jalr rd rs1 imm) :=
  fun _ _ => by simp [preDecode, encode, Instr.fetchKind]

theorem beq (rs1 rs2 : Reg) (off : BitVec 13) : Statement (.beq rs1 rs2 off) :=
  fun _ h => by
    simp only [Instr.wf, Bool.not_eq_true'] at h
    simp [preDecode, encode, immSBOf_packSB _ _ _ _ _ h, Instr.fetchKind]

theorem bne (rs1 rs2 : Reg) (off : BitVec 13) : Statement (.bne rs1 rs2 off) :=
  fun _ h => by
    simp only [Instr.wf, Bool.not_eq_true'] at h
    simp [preDecode, encode, immSBOf_packSB _ _ _ _ _ h, Instr.fetchKind]

theorem blt (rs1 rs2 : Reg) (off : BitVec 13) : Statement (.blt rs1 rs2 off) :=
  fun _ h => by
    simp only [Instr.wf, Bool.not_eq_true'] at h
    simp [preDecode, encode, immSBOf_packSB _ _ _ _ _ h, Instr.fetchKind]

theorem bge (rs1 rs2 : Reg) (off : BitVec 13) : Statement (.bge rs1 rs2 off) :=
  fun _ h => by
    simp only [Instr.wf, Bool.not_eq_true'] at h
    simp [preDecode, encode, immSBOf_packSB _ _ _ _ _ h, Instr.fetchKind]

theorem bltu (rs1 rs2 : Reg) (off : BitVec 13) : Statement (.bltu rs1 rs2 off) :=
  fun _ h => by
    simp only [Instr.wf, Bool.not_eq_true'] at h
    simp [preDecode, encode, immSBOf_packSB _ _ _ _ _ h, Instr.fetchKind]

theorem bgeu (rs1 rs2 : Reg) (off : BitVec 13) : Statement (.bgeu rs1 rs2 off) :=
  fun _ h => by
    simp only [Instr.wf, Bool.not_eq_true'] at h
    simp [preDecode, encode, immSBOf_packSB _ _ _ _ _ h, Instr.fetchKind]

theorem lb (rd rs1 : Reg) (imm : BitVec 12) : Statement (.lb rd rs1 imm) :=
  fun _ _ => by simp [preDecode, encode, Instr.fetchKind]

theorem lh (rd rs1 : Reg) (imm : BitVec 12) : Statement (.lh rd rs1 imm) :=
  fun _ _ => by simp [preDecode, encode, Instr.fetchKind]

theorem lw (rd rs1 : Reg) (imm : BitVec 12) : Statement (.lw rd rs1 imm) :=
  fun _ _ => by simp [preDecode, encode, Instr.fetchKind]

theorem ld (rd rs1 : Reg) (imm : BitVec 12) : Statement (.ld rd rs1 imm) :=
  fun _ _ => by simp [preDecode, encode, Instr.fetchKind]

theorem lbu (rd rs1 : Reg) (imm : BitVec 12) : Statement (.lbu rd rs1 imm) :=
  fun _ _ => by simp [preDecode, encode, Instr.fetchKind]

theorem lhu (rd rs1 : Reg) (imm : BitVec 12) : Statement (.lhu rd rs1 imm) :=
  fun _ _ => by simp [preDecode, encode, Instr.fetchKind]

theorem lwu (rd rs1 : Reg) (imm : BitVec 12) : Statement (.lwu rd rs1 imm) :=
  fun _ _ => by simp [preDecode, encode, Instr.fetchKind]

theorem sb (rs1 rs2 : Reg) (imm : BitVec 12) : Statement (.sb rs1 rs2 imm) :=
  fun _ _ => by simp [preDecode, encode, Instr.fetchKind]

theorem sh (rs1 rs2 : Reg) (imm : BitVec 12) : Statement (.sh rs1 rs2 imm) :=
  fun _ _ => by simp [preDecode, encode, Instr.fetchKind]

theorem sw (rs1 rs2 : Reg) (imm : BitVec 12) : Statement (.sw rs1 rs2 imm) :=
  fun _ _ => by simp [preDecode, encode, Instr.fetchKind]

theorem sd (rs1 rs2 : Reg) (imm : BitVec 12) : Statement (.sd rs1 rs2 imm) :=
  fun _ _ => by simp [preDecode, encode, Instr.fetchKind]

theorem addi (rd rs1 : Reg) (imm : BitVec 12) : Statement (.addi rd rs1 imm) :=
  fun _ _ => by simp [preDecode, encode, Instr.fetchKind]

theorem slti (rd rs1 : Reg) (imm : BitVec 12) : Statement (.slti rd rs1 imm) :=
  fun _ _ => by simp [preDecode, encode, Instr.fetchKind]

theorem sltiu (rd rs1 : Reg) (imm : BitVec 12) : Statement (.sltiu rd rs1 imm) :=
  fun _ _ => by simp [preDecode, encode, Instr.fetchKind]

theorem xori (rd rs1 : Reg) (imm : BitVec 12) : Statement (.xori rd rs1 imm) :=
  fun _ _ => by simp [preDecode, encode, Instr.fetchKind]

theorem ori (rd rs1 : Reg) (imm : BitVec 12) : Statement (.ori rd rs1 imm) :=
  fun _ _ => by simp [preDecode, encode, Instr.fetchKind]

theorem andi (rd rs1 : Reg) (imm : BitVec 12) : Statement (.andi rd rs1 imm) :=
  fun _ _ => by simp [preDecode, encode, Instr.fetchKind]

theorem slli (rd rs1 : Reg) (shamt : BitVec 6) : Statement (.slli rd rs1 shamt) :=
  fun _ _ => by simp [preDecode, encode, Instr.fetchKind]

theorem srli (rd rs1 : Reg) (shamt : BitVec 6) : Statement (.srli rd rs1 shamt) :=
  fun _ _ => by simp [preDecode, encode, Instr.fetchKind]

theorem srai (rd rs1 : Reg) (shamt : BitVec 6) : Statement (.srai rd rs1 shamt) :=
  fun _ _ => by simp [preDecode, encode, Instr.fetchKind]

theorem add (rd rs1 rs2 : Reg) : Statement (.add rd rs1 rs2) :=
  fun _ _ => by simp [preDecode, encode, Instr.fetchKind]

theorem sub (rd rs1 rs2 : Reg) : Statement (.sub rd rs1 rs2) :=
  fun _ _ => by simp [preDecode, encode, Instr.fetchKind]

theorem sll (rd rs1 rs2 : Reg) : Statement (.sll rd rs1 rs2) :=
  fun _ _ => by simp [preDecode, encode, Instr.fetchKind]

theorem slt (rd rs1 rs2 : Reg) : Statement (.slt rd rs1 rs2) :=
  fun _ _ => by simp [preDecode, encode, Instr.fetchKind]

theorem sltu (rd rs1 rs2 : Reg) : Statement (.sltu rd rs1 rs2) :=
  fun _ _ => by simp [preDecode, encode, Instr.fetchKind]

theorem xor (rd rs1 rs2 : Reg) : Statement (.xor rd rs1 rs2) :=
  fun _ _ => by simp [preDecode, encode, Instr.fetchKind]

theorem srl (rd rs1 rs2 : Reg) : Statement (.srl rd rs1 rs2) :=
  fun _ _ => by simp [preDecode, encode, Instr.fetchKind]

theorem sra (rd rs1 rs2 : Reg) : Statement (.sra rd rs1 rs2) :=
  fun _ _ => by simp [preDecode, encode, Instr.fetchKind]

theorem or (rd rs1 rs2 : Reg) : Statement (.or rd rs1 rs2) :=
  fun _ _ => by simp [preDecode, encode, Instr.fetchKind]

theorem and (rd rs1 rs2 : Reg) : Statement (.and rd rs1 rs2) :=
  fun _ _ => by simp [preDecode, encode, Instr.fetchKind]

theorem mul (rd rs1 rs2 : Reg) : Statement (.mul rd rs1 rs2) :=
  fun _ _ => by simp [preDecode, encode, Instr.fetchKind]

theorem mulh (rd rs1 rs2 : Reg) : Statement (.mulh rd rs1 rs2) :=
  fun _ _ => by simp [preDecode, encode, Instr.fetchKind]

theorem div (rd rs1 rs2 : Reg) : Statement (.div rd rs1 rs2) :=
  fun _ _ => by simp [preDecode, encode, Instr.fetchKind]

theorem rem (rd rs1 rs2 : Reg) : Statement (.rem rd rs1 rs2) :=
  fun _ _ => by simp [preDecode, encode, Instr.fetchKind]

theorem addiw (rd rs1 : Reg) (imm : BitVec 12) : Statement (.addiw rd rs1 imm) :=
  fun _ _ => by simp [preDecode, encode, Instr.fetchKind]

theorem slliw (rd rs1 : Reg) (shamt : BitVec 5) : Statement (.slliw rd rs1 shamt) :=
  fun _ _ => by simp [preDecode, encode, Instr.fetchKind]

theorem srliw (rd rs1 : Reg) (shamt : BitVec 5) : Statement (.srliw rd rs1 shamt) :=
  fun _ _ => by simp [preDecode, encode, Instr.fetchKind]

theorem sraiw (rd rs1 : Reg) (shamt : BitVec 5) : Statement (.sraiw rd rs1 shamt) :=
  fun _ _ => by simp [preDecode, encode, Instr.fetchKind]

theorem addw (rd rs1 rs2 : Reg) : Statement (.addw rd rs1 rs2) :=
  fun _ _ => by simp [preDecode, encode, Instr.fetchKind]

theorem subw (rd rs1 rs2 : Reg) : Statement (.subw rd rs1 rs2) :=
  fun _ _ => by simp [preDecode, encode, Instr.fetchKind]

theorem sllw (rd rs1 rs2 : Reg) : Statement (.sllw rd rs1 rs2) :=
  fun _ _ => by simp [preDecode, encode, Instr.fetchKind]

theorem srlw (rd rs1 rs2 : Reg) : Statement (.srlw rd rs1 rs2) :=
  fun _ _ => by simp [preDecode, encode, Instr.fetchKind]

theorem sraw (rd rs1 rs2 : Reg) : Statement (.sraw rd rs1 rs2) :=
  fun _ _ => by simp [preDecode, encode, Instr.fetchKind]

theorem ecall : Statement (.ecall) :=
  fun _ _ => by simp [preDecode, encode, Instr.fetchKind]

end Sys2Proof.Laws.PreDecoded
end

