-- ==== Sys2Proof/Laws/Pipeline.lean ====
section
/-! SUPPORT. The stages of a cycle and the step, inverted once (70_reset_and_hazards.md R410 to R450; 60_exceptions.md R302). -/

namespace Sys2Proof.Machine

/-! ### Going from stage to stage -/

@[simp] theorem isFatal_running : Status.running.isFatal = false := rfl
@[simp] theorem isFatal_exited : Status.exited.isFatal = false := rfl
@[simp] theorem isFatal_fatal (k : FatalKind) : (Status.fatal k).isFatal = true := rfl

/-- A cycle goes on from a stage, or ends there with the fatal state as it is. -/
theorem thenStage_next {o : Host.Outcome State Fault Refusal} {k : State → Host.Outcome State Fault Refusal} {t : State}
    (h : thenStage o k = .next t) : ∃ s, o = .next s ∧
      (s.status.isFatal = true ∧ t = { s with sig := Signals.idle } ∨ s.status.isFatal = false ∧ k s = .next t) := by
  unfold thenStage at h
  split at h
  · next s =>
    refine ⟨s, rfl, ?_⟩
    split at h
    · next hf => injection h with h; exact .inl ⟨hf, h.symm⟩
    · next hf => exact .inr ⟨by simpa using hf, h⟩
  · cases h
  · cases h

theorem thenStage_goes_on {s : State} {k : State → Host.Outcome State Fault Refusal} (h : s.status.isFatal = false) :
    thenStage (.next s) k = k s := by
  simp [thenStage, h]

theorem thenStage_ends {s : State} {k : State → Host.Outcome State Fault Refusal} (h : s.status.isFatal = true) :
    thenStage (.next s) k = .next { s with sig := Signals.idle } := by
  simp [thenStage, h]

/-- A composition of stages that all answer next states answers one. -/
theorem thenStage_answers {o : Host.Outcome State Fault Refusal} {k : State → Host.Outcome State Fault Refusal}
    (ho : ∃ s, o = .next s) (hk : ∀ s, ∃ t, k s = .next t) : ∃ t, thenStage o k = .next t := by
  obtain ⟨s, rfl⟩ := ho
  unfold thenStage
  simp only
  split
  · exact ⟨_, rfl⟩
  · exact hk s

/-! ### Fetch -/

/-- What Fetch can do (R411, R412, R305, R307). -/
theorem fetchStage_cases (s : State) :
    (s.fCur.bubble = true ∧
      fetchStage s = { s with dNxt := Snap.bubble, fNxt := { pc := s.fCur.pc, bubble := true, stall := false } }) ∨
    (s.fCur.bubble = false ∧ ∃ s', fetch32 s s.fCur.pc = .raised s' ∧ fetchStage s = s') ∨
    (s.fCur.bubble = false ∧ ∃ s' v t, fetch32 s s.fCur.pc = .ok s' v t ∧
      fetchStage s = report (if s.cfg.chargeFetchLatency then t else 1) (afterFetch s.fCur.pc (fetchedWord v) s')) := by
  unfold fetchStage
  split
  · exact .inl ⟨‹_›, rfl⟩
  · next hb =>
    have hb : s.fCur.bubble = false := by simpa using hb
    split
    · exact .inr (.inl ⟨hb, _, ‹_›, rfl⟩)
    · exact .inr (.inr ⟨hb, _, _, _, ‹_›, rfl⟩)

/-! ### Decode -/

/-- What Decode can do (R420, R303). -/
theorem decodeStage_cases (s : State) :
    (s.dCur.slot = none ∧ decodeStage s = .next { s with eNxt := Snap.bubble }) ∨
    (∃ d why, s.dCur.slot = some d ∧ decode s.cfg.shamt6 d.word = .reject why ∧
      decodeStage s = .next (raise (.decodeError d.pc d.word) s)) ∨
    (∃ d i, s.dCur.slot = some d ∧ decode s.cfg.shamt6 d.word = .ok i ∧
      decodeStage s = .next (decodePart i (meaningOf i) (atPhase .decode (report 1 (issue i d s))))) := by
  unfold decodeStage
  split
  · exact .inl ⟨‹_›, rfl⟩
  · next d hd =>
    split
    · exact .inr (.inl ⟨d, _, hd, ‹_›, rfl⟩)
    · exact .inr (.inr ⟨d, _, hd, ‹_›, exec_decode _ _⟩)

/-! ### Execute, MemoryAccess, WriteBack -/

/-- What Execute can do (R423). -/
theorem executeStage_cases (s : State) :
    (s.eCur.slot = none ∧ executeStage s = .next { s with mNxt := Snap.bubble }) ∨
    (∃ e, s.eCur.slot = some e ∧ executeStage s =
      thenStage (.next (executePart e.inst.op (meaningOf e.inst.op) (atPhase .execute s)))
        fun s' => .next (afterExecute e.inst.op s')) := by
  unfold executeStage
  split
  · exact .inl ⟨‹_›, rfl⟩
  · next e he => exact .inr ⟨e, he, by rw [exec_execute]⟩

/-- What MemoryAccess can do (R426). -/
theorem memoryStage_cases (s : State) :
    (s.mCur.slot = none ∧ memoryStage s = .next { s with wNxt := Snap.bubble }) ∨
    (∃ x, s.mCur.slot = some x ∧ memoryStage s =
      thenStage (.next (memoryPart (meaningOf x.inst.op) (atPhase .memory s))) fun s' => .next (afterMemory x.inst.op s')) := by
  unfold memoryStage
  split
  · exact .inl ⟨‹_›, rfl⟩
  · next x hx => exact .inr ⟨x, hx, by rw [exec_memory]⟩

/-- What WriteBack can do (R427). -/
theorem writeBackStage_cases (s : State) :
    (s.wCur.slot = none ∧ writeBackStage s = .next s) ∨
    (∃ x, s.wCur.slot = some x ∧ writeBackStage s =
      thenStage (.next (writeBackPart x.inst.op (meaningOf x.inst.op) (atPhase .writeBack (report 1 s))))
        fun s' => .next (forward x.inst.op.dst x.valE s')) := by
  unfold writeBackStage
  split
  · exact .inl ⟨‹_›, rfl⟩
  · next x hx => exact .inr ⟨x, hx, by rw [exec_writeBack]⟩

/-! ### Forwarding and the hold -/

/-- What forwarding can do: nothing, or set operands of `E.nxt` (R430). -/
theorem forward_cases (d : Option Reg) (v : Word) (s : State) :
    forward d v s = s ∨
    (∃ r e, d = some r ∧ s.eNxt.slot = some e ∧
      (forward d v s).eNxt.slot = some { e with
        op1 := if forwardsTo r e.inst.op.srcs.1 s.sig.fwd1 then v else e.op1
        op2 := if forwardsTo r e.inst.op.srcs.2 s.sig.fwd2 then v else e.op2 } ∧
      (forward d v s).eNxt.stall = s.eNxt.stall ∧
      (forward d v s).sig = { s.sig with
        fwd1 := s.sig.fwd1 || forwardsTo r e.inst.op.srcs.1 s.sig.fwd1
        fwd2 := s.sig.fwd2 || forwardsTo r e.inst.op.srcs.2 s.sig.fwd2 }) := by
  cases d with
  | none => exact .inl rfl
  | some r =>
    cases he : s.eNxt.slot with
    | none => exact .inl (by simp only [forward, he])
    | some e => exact .inr ⟨r, e, rfl, rfl, by simp only [forward, he], by simp only [forward, he], by simp only [forward, he]⟩

/-- What Execute does after its part (R423, R430, R432). -/
theorem afterExecute_eq (i : Instr) (s : State) :
    ∃ s', (s' = s ∨ ∃ x, s.mNxt.slot = some x ∧ i.isLoad = false ∧ s' = forward i.dst x.valE s) ∧
      (loadUse i s'.eNxt.slot = true ∧ afterExecute i s = holdForLoad s' ∨
       loadUse i s'.eNxt.slot = false ∧ afterExecute i s = s') := by
  unfold afterExecute
  split
  · next x hx =>
    cases hl : i.isLoad with
    | true =>
      refine ⟨s, .inl rfl, ?_⟩
      simp only [if_true]
      split
      · exact .inl ⟨‹_›, rfl⟩
      · next h => exact .inr ⟨by simpa using h, rfl⟩
    | false =>
      refine ⟨forward i.dst x.valE s, .inr ⟨x, hx, rfl, rfl⟩, ?_⟩
      simp only [Bool.false_eq_true, if_false]
      split
      · exact .inl ⟨‹_›, rfl⟩
      · next h => exact .inr ⟨by simpa using h, rfl⟩
  · refine ⟨s, .inl rfl, ?_⟩
    simp only
    split
    · exact .inl ⟨‹_›, rfl⟩
    · next h => exact .inr ⟨by simpa using h, rfl⟩

/-! ### The step -/

/-- A next state comes of a cycle of a running machine with an admitted configuration. -/
theorem step_next {s t : State} (h : step s = .next t) : s.Runs ∧ cycle s = .next t := by
  unfold step at h
  split at h
  · cases h
  · cases h
  · next hr =>
    split at h
    · next ha => exact ⟨⟨hr, ha⟩, h⟩
    · cases h

theorem step_runs {s : State} (h : s.Runs) : step s = cycle s := by
  simp [step, h.running, h.admitted]

/-- The cycle, stage by stage: it ends at the first stage that raised, or with the update (R410, R302, R450). -/
theorem cycle_next {s t : State} (h : cycle s = .next t) :
    ∃ s1, fetchStage { s with sig := Signals.idle } = s1 ∧
      (s1.status.isFatal = true ∧ t = { s1 with sig := Signals.idle } ∨ s1.status.isFatal = false ∧
    ∃ s2, decodeStage s1 = .next s2 ∧
      (s2.status.isFatal = true ∧ t = { s2 with sig := Signals.idle } ∨ s2.status.isFatal = false ∧
    ∃ s3, executeStage s2 = .next s3 ∧
      (s3.status.isFatal = true ∧ t = { s3 with sig := Signals.idle } ∨ s3.status.isFatal = false ∧
    ∃ s4, memoryStage s3 = .next s4 ∧
      (s4.status.isFatal = true ∧ t = { s4 with sig := Signals.idle } ∨ s4.status.isFatal = false ∧
    ∃ s5, writeBackStage s4 = .next s5 ∧
      (s5.status.isFatal = true ∧ t = { s5 with sig := Signals.idle } ∨ s5.status.isFatal = false ∧ t = updatePipeline s5))))) := by
  unfold cycle at h
  obtain ⟨s1, h1, h⟩ := thenStage_next h
  injection h1 with h1
  refine ⟨s1, h1, h.imp_right fun ⟨f1, h⟩ => ⟨f1, ?_⟩⟩
  obtain ⟨s2, h2, h⟩ := thenStage_next h
  refine ⟨s2, h2, h.imp_right fun ⟨f2, h⟩ => ⟨f2, ?_⟩⟩
  obtain ⟨s3, h3, h⟩ := thenStage_next h
  refine ⟨s3, h3, h.imp_right fun ⟨f3, h⟩ => ⟨f3, ?_⟩⟩
  obtain ⟨s4, h4, h⟩ := thenStage_next h
  refine ⟨s4, h4, h.imp_right fun ⟨f4, h⟩ => ⟨f4, ?_⟩⟩
  obtain ⟨s5, h5, h⟩ := thenStage_next h
  refine ⟨s5, h5, h.imp_right fun ⟨f5, h⟩ => ⟨f5, ?_⟩⟩
  injection h with h
  exact h.symm

end Sys2Proof.Machine
end

