-- ==== Sys2Proof/Machine/Assembler.lean ====
section
/-! DEFINITION. Assembler syntax, ABI register names and pseudo-instructions (30_encoding.md R140, R141; 10_state.md R20), which the
spec marks as general knowledge. Nothing of the machine depends on them. A label is written as its displacement. -/

namespace Sys2Proof

/-- The ABI names of `x0` to `x31` (R20). -/
def abiNames : List String :=
  ["zero", "ra", "sp", "gp", "tp", "t0", "t1", "t2", "s0", "s1", "a0", "a1", "a2", "a3", "a4", "a5"] ++
  ["a6", "a7", "s2", "s3", "s4", "s5", "s6", "s7", "s8", "s9", "s10", "s11", "t3", "t4", "t5", "t6"]

/-- The ABI name of a register. -/
def abiName (r : Reg) : String := abiNames.getD r.toNat ""

namespace Machine

/-- `op a, b, c`. -/
def line (op : String) (operands : List String) : String := op ++ " " ++ ", ".intercalate operands

/-- `imm(rs1)`. -/
def based (imm : BitVec 12) (rs1 : Reg) : String := toString imm.toInt ++ "(" ++ abiName rs1 ++ ")"

/-- The text of an instruction (R140). -/
def asm : Instr → String
  | .lui rd imm => line "lui" [abiName rd, toString imm.toNat]
  | .auipc rd imm => line "auipc" [abiName rd, toString imm.toNat]
  | .jal rd off => line "jal" [abiName rd, toString off.toInt]
  | .jalr rd rs1 imm => line "jalr" [abiName rd, based imm rs1]
  | .beq rs1 rs2 off => line "beq" [abiName rs1, abiName rs2, toString off.toInt]
  | .bne rs1 rs2 off => line "bne" [abiName rs1, abiName rs2, toString off.toInt]
  | .blt rs1 rs2 off => line "blt" [abiName rs1, abiName rs2, toString off.toInt]
  | .bge rs1 rs2 off => line "bge" [abiName rs1, abiName rs2, toString off.toInt]
  | .bltu rs1 rs2 off => line "bltu" [abiName rs1, abiName rs2, toString off.toInt]
  | .bgeu rs1 rs2 off => line "bgeu" [abiName rs1, abiName rs2, toString off.toInt]
  | .lb rd rs1 imm => line "lb" [abiName rd, based imm rs1]
  | .lh rd rs1 imm => line "lh" [abiName rd, based imm rs1]
  | .lw rd rs1 imm => line "lw" [abiName rd, based imm rs1]
  | .ld rd rs1 imm => line "ld" [abiName rd, based imm rs1]
  | .lbu rd rs1 imm => line "lbu" [abiName rd, based imm rs1]
  | .lhu rd rs1 imm => line "lhu" [abiName rd, based imm rs1]
  | .lwu rd rs1 imm => line "lwu" [abiName rd, based imm rs1]
  | .sb rs1 rs2 imm => line "sb" [abiName rs2, based imm rs1]
  | .sh rs1 rs2 imm => line "sh" [abiName rs2, based imm rs1]
  | .sw rs1 rs2 imm => line "sw" [abiName rs2, based imm rs1]
  | .sd rs1 rs2 imm => line "sd" [abiName rs2, based imm rs1]
  | .addi rd rs1 imm => line "addi" [abiName rd, abiName rs1, toString imm.toInt]
  | .slti rd rs1 imm => line "slti" [abiName rd, abiName rs1, toString imm.toInt]
  | .sltiu rd rs1 imm => line "sltiu" [abiName rd, abiName rs1, toString imm.toInt]
  | .xori rd rs1 imm => line "xori" [abiName rd, abiName rs1, toString imm.toInt]
  | .ori rd rs1 imm => line "ori" [abiName rd, abiName rs1, toString imm.toInt]
  | .andi rd rs1 imm => line "andi" [abiName rd, abiName rs1, toString imm.toInt]
  | .slli rd rs1 shamt => line "slli" [abiName rd, abiName rs1, toString shamt.toNat]
  | .srli rd rs1 shamt => line "srli" [abiName rd, abiName rs1, toString shamt.toNat]
  | .srai rd rs1 shamt => line "srai" [abiName rd, abiName rs1, toString shamt.toNat]
  | .add rd rs1 rs2 => line "add" [abiName rd, abiName rs1, abiName rs2]
  | .sub rd rs1 rs2 => line "sub" [abiName rd, abiName rs1, abiName rs2]
  | .sll rd rs1 rs2 => line "sll" [abiName rd, abiName rs1, abiName rs2]
  | .slt rd rs1 rs2 => line "slt" [abiName rd, abiName rs1, abiName rs2]
  | .sltu rd rs1 rs2 => line "sltu" [abiName rd, abiName rs1, abiName rs2]
  | .xor rd rs1 rs2 => line "xor" [abiName rd, abiName rs1, abiName rs2]
  | .srl rd rs1 rs2 => line "srl" [abiName rd, abiName rs1, abiName rs2]
  | .sra rd rs1 rs2 => line "sra" [abiName rd, abiName rs1, abiName rs2]
  | .or rd rs1 rs2 => line "or" [abiName rd, abiName rs1, abiName rs2]
  | .and rd rs1 rs2 => line "and" [abiName rd, abiName rs1, abiName rs2]
  | .mul rd rs1 rs2 => line "mul" [abiName rd, abiName rs1, abiName rs2]
  | .mulh rd rs1 rs2 => line "mulh" [abiName rd, abiName rs1, abiName rs2]
  | .div rd rs1 rs2 => line "div" [abiName rd, abiName rs1, abiName rs2]
  | .rem rd rs1 rs2 => line "rem" [abiName rd, abiName rs1, abiName rs2]
  | .addiw rd rs1 imm => line "addiw" [abiName rd, abiName rs1, toString imm.toInt]
  | .slliw rd rs1 shamt => line "slliw" [abiName rd, abiName rs1, toString shamt.toNat]
  | .srliw rd rs1 shamt => line "srliw" [abiName rd, abiName rs1, toString shamt.toNat]
  | .sraiw rd rs1 shamt => line "sraiw" [abiName rd, abiName rs1, toString shamt.toNat]
  | .addw rd rs1 rs2 => line "addw" [abiName rd, abiName rs1, abiName rs2]
  | .subw rd rs1 rs2 => line "subw" [abiName rd, abiName rs1, abiName rs2]
  | .sllw rd rs1 rs2 => line "sllw" [abiName rd, abiName rs1, abiName rs2]
  | .srlw rd rs1 rs2 => line "srlw" [abiName rd, abiName rs1, abiName rs2]
  | .sraw rd rs1 rs2 => line "sraw" [abiName rd, abiName rs1, abiName rs2]
  | .ecall => "ecall"

/-- The upper part of a 32-bit value or displacement, rounded for the sign of the lower part (R141). -/
def hi20 (v : BitVec 32) : BitVec 20 := (v + 0x800#32).extractLsb' 12 20
/-- The lower part, which is sign-extended when it is added (R141). -/
def lo12 (v : BitVec 32) : BitVec 12 := v.extractLsb' 0 12

/-- The pseudo-instructions of R141. Labels are displacements; those of `call`, `tail` and `la` have 32 bits. -/
inductive Pseudo where
  | nop
  | li (rd : Reg) (imm : BitVec 12)
  | li32 (rd : Reg) (imm : BitVec 32)
  | mv (rd rs : Reg)
  | not (rd rs : Reg)
  | neg (rd rs : Reg)
  | negw (rd rs : Reg)
  | sextW (rd rs : Reg)
  | seqz (rd rs : Reg)
  | snez (rd rs : Reg)
  | sltz (rd rs : Reg)
  | sgtz (rd rs : Reg)
  | beqz (rs : Reg) (l : BitVec 13)
  | bnez (rs : Reg) (l : BitVec 13)
  | blez (rs : Reg) (l : BitVec 13)
  | bgez (rs : Reg) (l : BitVec 13)
  | bltz (rs : Reg) (l : BitVec 13)
  | bgtz (rs : Reg) (l : BitVec 13)
  | bgt (a b : Reg) (l : BitVec 13)
  | ble (a b : Reg) (l : BitVec 13)
  | bgtu (a b : Reg) (l : BitVec 13)
  | bleu (a b : Reg) (l : BitVec 13)
  | j (l : BitVec 21)
  | jalRa (l : BitVec 21)
  | jr (rs : Reg)
  | jalrRa (rs : Reg)
  | ret
  | call (l : BitVec 32)
  | tail (l : BitVec 32)
  | la (rd : Reg) (l : BitVec 32)
  deriving DecidableEq, Repr

/-- What a pseudo-instruction expands to (R141). -/
def expand : Pseudo → List Instr
  | .nop => [.addi 0 0 0]
  | .li rd imm => [.addi rd 0 imm]
  | .li32 rd imm => [.lui rd (hi20 imm), .addiw rd rd (lo12 imm)]
  | .mv rd rs => [.addi rd rs 0]
  | .not rd rs => [.xori rd rs (-1)]
  | .neg rd rs => [.sub rd 0 rs]
  | .negw rd rs => [.subw rd 0 rs]
  | .sextW rd rs => [.addiw rd rs 0]
  | .seqz rd rs => [.sltiu rd rs 1]
  | .snez rd rs => [.sltu rd 0 rs]
  | .sltz rd rs => [.slt rd rs 0]
  | .sgtz rd rs => [.slt rd 0 rs]
  | .beqz rs l => [.beq rs 0 l]
  | .bnez rs l => [.bne rs 0 l]
  | .blez rs l => [.bge 0 rs l]
  | .bgez rs l => [.bge rs 0 l]
  | .bltz rs l => [.blt rs 0 l]
  | .bgtz rs l => [.blt 0 rs l]
  | .bgt a b l => [.blt b a l]
  | .ble a b l => [.bge b a l]
  | .bgtu a b l => [.bltu b a l]
  | .bleu a b l => [.bgeu b a l]
  | .j l => [.jal 0 l]
  | .jalRa l => [.jal 1 l]
  | .jr rs => [.jalr 0 rs 0]
  | .jalrRa rs => [.jalr 1 rs 0]
  | .ret => [.jalr 0 1 0]
  | .call l => [.auipc 1 (hi20 l), .jalr 1 1 (lo12 l)]
  | .tail l => [.auipc 6 (hi20 l), .jalr 0 6 (lo12 l)]
  | .la rd l => [.auipc rd (hi20 l), .addi rd rd (lo12 l)]

end Machine

end Sys2Proof
end

