-- ==== Sys2Proof/Machine/Report.lean ====
section
/-! DEFINITION. The derived metrics of the exit report (60_exceptions.md R325): formulas over the counters, not state. A metric
whose divisor is 0 has no value. The AMAT formula is not normative there and is left out. -/

namespace Sys2Proof.Machine

/-- `n / d` for `d > 0`. -/
def ratio (n d : Nat) : Option Rat := if d = 0 then none else some (n / d)

/-- `CPI = cycleCount / instCount`. -/
def cpi (s : State) : Option Rat := ratio s.ctr.cycleCount s.ctr.instCount

/-- Branch-prediction accuracy: `branchCorrect / branchCount`. -/
def branchAccuracy (s : State) : Option Rat := ratio s.ctr.branchCorrect s.ctr.branchCount

/-- Miss rate of a level: `misses / accesses`. -/
def missRate (lv : Level) : Option Rat := ratio lv.misses lv.accesses

end Sys2Proof.Machine
end

