-- ==== Sys2Proof/Machine/Trace.lean ====
section
/-! DEFINITION. Trace replay, the host-side harness of the storage chain (20_memory.md R98): each line is one request at the top
of the chain, with a physical address and no translation. -/

namespace Sys2Proof.Machine

/-- A line of a trace. The data of a write is not given by the spec: any bytes, here an argument (D42). -/
inductive TraceLine where
  | r (addr : Nat)
  | w (addr : Nat) (data : List Byte)
  deriving DecidableEq, Repr

/-- Exactly `n` bytes of write data. -/
def traceData (n : Nat) (data : List Byte) : List Byte := (List.range n).map fun k => data.getD k 0

/-- The request of a line: `TraceBytes` bytes, a demand request. -/
def TraceLine.req (cfg : Config) : TraceLine → Req
  | .r a => { addr := a, bytes := cfg.traceBytes, isRead := true, buf := [], isPrefetch := false }
  | .w a data => { addr := a, bytes := cfg.traceBytes, isRead := false, buf := traceData cfg.traceBytes data, isPrefetch := false }

/-- Replay lines until one raises: the hit and time of each line served, and the last answer's storage. -/
def replay (cfg : Config) : List TraceLine → Storage → List (Bool × Nat) × Storage
  | [], st => ([], st)
  | l :: ls, st =>
    match handleTop cfg (l.req cfg) st with
    | .ok st' _ hit t =>
      let (rest, st'') := replay cfg ls st'
      ((hit, t) :: rest, st'')
    | .bounds st' _ _ _ => ([], st')

end Sys2Proof.Machine
end

