-- ==== Sys2Proof/Tests/Slice0.lean ====
section
/-! SUPPORT. Tests of the model on the spec's own examples, and for every statement with hypotheses a state that meets them. Where
nothing else is said, an expected value is that of the Example line of the instruction's rule (40_integer.md, 41_control.md,
42_load_store.md). -/

set_option Elab.async false

namespace Sys2Proof.Tests

open Sys2Proof Sys2Proof.Machine

/-! ### WellFormed refuses ill-formed terms -/

theorem test_wf_odd_branches :
    (Instr.beq 1 2 1).wf true = false ∧ (Instr.bne 1 2 3).wf true = false ∧ (Instr.blt 1 2 5).wf true = false ∧
    (Instr.bge 1 2 7).wf true = false ∧ (Instr.bltu 1 2 9).wf true = false ∧ (Instr.bgeu 1 2 (-1)).wf true = false := by decide

theorem test_wf_odd_jal : (Instr.jal 1 0x801).wf true = false := by decide

theorem test_wf_long_shifts :
    (Instr.slli 1 2 32).wf false = false ∧ (Instr.srli 1 2 32).wf false = false ∧ (Instr.srai 1 2 63).wf false = false := by decide

/-- What `DecodeOfEncode` assumes, at the ends of the displacements and of the shift amounts. -/
theorem test_wf_bounds :
    (Instr.beq 1 2 (-4096)).wf false = true ∧ (Instr.bgeu 1 2 4094).wf false = true ∧ (Instr.jal 1 (-1048576)).wf false = true ∧
    (Instr.jal 1 1048574).wf false = true ∧ (Instr.slli 1 2 31).wf false = true ∧ (Instr.srai 1 2 63).wf true = true := by decide

/-! ### Decoding -/

/-- Words of the rules' Example lines. -/
theorem test_decode_Upper :
    decodeTableWord 32 0x12345537 = some (.lui 10 0x12345) ∧
    decodeTableWord 32 0xFFFFF517 = some (.auipc 10 0xFFFFF) := by decide

/-- Words of the rules' Example lines. -/
theorem test_decode_OpImm :
    decodeTableWord 32 0xFF758513 = some (.addi 10 11 (-9)) ∧
    decodeTableWord 32 0x0005A513 = some (.slti 10 11 0) ∧
    decodeTableWord 32 0xFFF5B513 = some (.sltiu 10 11 (-1)) ∧
    decodeTableWord 32 0xFFF5C513 = some (.xori 10 11 (-1)) ∧
    decodeTableWord 32 0x80F5E513 = some (.ori 10 11 (-2033)) ∧
    decodeTableWord 32 0x7F05F513 = some (.andi 10 11 0x7F0) ∧
    decodeTableWord 32 0x03F59513 = some (.slli 10 11 63) ∧
    decodeTableWord 32 0x0045D513 = some (.srli 10 11 4) ∧
    decodeTableWord 32 0x4045D513 = some (.srai 10 11 4) := by decide

/-- Words of the rules' Example lines. -/
theorem test_decode_Op :
    decodeTableWord 32 0x00C58533 = some (.add 10 11 12) ∧
    decodeTableWord 32 0x40C58533 = some (.sub 10 11 12) ∧
    decodeTableWord 32 0x00C59533 = some (.sll 10 11 12) ∧
    decodeTableWord 32 0x00C5A533 = some (.slt 10 11 12) ∧
    decodeTableWord 32 0x00C5B533 = some (.sltu 10 11 12) ∧
    decodeTableWord 32 0x00C5C533 = some (.xor 10 11 12) ∧
    decodeTableWord 32 0x00C5D533 = some (.srl 10 11 12) ∧
    decodeTableWord 32 0x40C5D533 = some (.sra 10 11 12) ∧
    decodeTableWord 32 0x00C5E533 = some (.or 10 11 12) ∧
    decodeTableWord 32 0x00C5F533 = some (.and 10 11 12) := by decide

/-- Words of the rules' Example lines. -/
theorem test_decode_Word :
    decodeTableWord 32 0x0015851B = some (.addiw 10 11 1) ∧
    decodeTableWord 32 0x01F5951B = some (.slliw 10 11 31) ∧
    decodeTableWord 32 0x0045D51B = some (.srliw 10 11 4) ∧
    decodeTableWord 32 0x4045D51B = some (.sraiw 10 11 4) ∧
    decodeTableWord 32 0x00C5853B = some (.addw 10 11 12) ∧
    decodeTableWord 32 0x40C5853B = some (.subw 10 11 12) ∧
    decodeTableWord 32 0x00C5953B = some (.sllw 10 11 12) ∧
    decodeTableWord 32 0x00C5D53B = some (.srlw 10 11 12) ∧
    decodeTableWord 32 0x40C5D53B = some (.sraw 10 11 12) := by decide

/-- Words of the rules' Example lines. -/
theorem test_decode_MulDiv :
    decodeTableWord 32 0x02C58533 = some (.mul 10 11 12) ∧
    decodeTableWord 32 0x02C59533 = some (.mulh 10 11 12) ∧
    decodeTableWord 32 0x02C5C533 = some (.div 10 11 12) ∧
    decodeTableWord 32 0x02C5E533 = some (.rem 10 11 12) := by decide

/-- Words of the rules' Example lines. -/
theorem test_decode_Branch :
    decodeTableWord 32 0x00B50463 = some (.beq 10 11 8) ∧
    decodeTableWord 32 0xFEB51CE3 = some (.bne 10 11 (-8)) ∧
    decodeTableWord 32 0x00B54863 = some (.blt 10 11 16) ∧
    decodeTableWord 32 0xFEB55EE3 = some (.bge 10 11 (-4)) ∧
    decodeTableWord 32 0x00B56663 = some (.bltu 10 11 12) ∧
    decodeTableWord 32 0x00B570E3 = some (.bgeu 10 11 2048) := by decide

/-- Words of the rules' Example lines. -/
theorem test_decode_Jump :
    decodeTableWord 32 0x001000EF = some (.jal 1 0x800) ∧
    decodeTableWord 32 0x00008067 = some (.jalr 0 1 0) := by decide

/-- Words of the rules' Example lines. -/
theorem test_decode_Load :
    decodeTableWord 32 0x00058503 = some (.lb 10 11 0) ∧
    decodeTableWord 32 0x00059503 = some (.lh 10 11 0) ∧
    decodeTableWord 32 0x0005A503 = some (.lw 10 11 0) ∧
    decodeTableWord 32 0x0005B503 = some (.ld 10 11 0) ∧
    decodeTableWord 32 0x0005C503 = some (.lbu 10 11 0) ∧
    decodeTableWord 32 0x0005D503 = some (.lhu 10 11 0) ∧
    decodeTableWord 32 0x0045E503 = some (.lwu 10 11 4) := by decide

/-- Words of the rules' Example lines. -/
theorem test_decode_Store :
    decodeTableWord 32 0x00C58023 = some (.sb 11 12 0) ∧
    decodeTableWord 32 0x00C59123 = some (.sh 11 12 2) ∧
    decodeTableWord 32 0x00C5A223 = some (.sw 11 12 4) ∧
    decodeTableWord 32 0xFEC5BC23 = some (.sd 11 12 (-8)) := by decide

/-- The word of R132. -/
theorem test_decode_System :
    decodeTableWord 32 0x00000073 = some (.ecall) := by decide

/-- R132, R133, R135: EBREAK, MRET, WFI, FENCE, MULHSU, DIVU, LOAD func3 111, JALR func3 001, a W shift with bit 25, all zeros and
all ones do not decode. -/
theorem test_decode_failures :
    decodeTableWord 32 0x00100073 = none ∧ decodeTableWord 32 0x30200073 = none ∧ decodeTableWord 32 0x10500073 = none ∧
    decodeTableWord 32 0x0000000F = none ∧ decodeTableWord 32 0x02C5A533 = none ∧ decodeTableWord 32 0x02C5D533 = none ∧
    decodeTableWord 32 0x0005F503 = none ∧ decodeTableWord 32 0x00009067 = none ∧ decodeTableWord 32 0x0205951B = none ∧
    decodeTableWord 32 0 = none ∧ decodeTableWord 32 0xFFFFFFFF = none := by decide

/-- R130: the same word under the two values of `Shamt6`. -/
theorem test_decode_shamt6 :
    (decode true 0x03F59513 = .ok (.slli 10 11 63)) ∧ (∀ i, decode false 0x03F59513 ≠ .ok i) ∧
    decode false 0x01F59513 = .ok (.slli 10 11 31) := by
  refine ⟨by decide, fun i h => ?_, by decide⟩
  rw [show decode false 0x03F59513 = .reject .unmapped from by decide] at h
  exact nomatch h

/-- What `ImmediatesOfTheRecord` speaks of, at the ends of the five ranges (R125 to R129). -/
theorem test_immediates :
    (Inst.mk 0x80058513 0 .ecall).type = some .i ∧ (Inst.mk 0x80058513 0 .ecall).imm = -2048 ∧
    (Inst.mk 0x7EC5BFA3 0 .ecall).type = some .s ∧ (Inst.mk 0x7EC5BFA3 0 .ecall).imm = 2047 ∧
    (Inst.mk 0x80B50063 0 .ecall).type = some .sb ∧ (Inst.mk 0x80B50063 0 .ecall).imm = -4096 ∧
    (Inst.mk 0x80000537 0 .ecall).type = some .u ∧ (Inst.mk 0x80000537 0 .ecall).imm = -2147483648 ∧
    (Inst.mk 0x7FFFF0EF 0 .ecall).type = some .uj ∧ (Inst.mk 0x7FFFF0EF 0 .ecall).imm = 1048574 := by decide

/-- What `RecordAgreesWithOperands` speaks of: a word of each type, and ECALL. -/
theorem test_record_types :
    (Inst.mk 0x00C58533 0 (.add 10 11 12)).type = some .r ∧ (Inst.mk 0x00C58533 0 (.add 10 11 12)).rs2 = 12 ∧
    (Inst.mk 0x00000073 0 .ecall).type = some .i ∧ (Instr.slli 10 11 63).shiftAmount = some 63 ∧
    (Instr.sraiw 10 11 4).shiftAmount = some 4 ∧ (Instr.addi 10 11 (-9)).immediate = some (-9) := by decide

/-! ### Small machines -/

/-- One line of 8 bytes, write-back and write-allocate. -/
def tinyLevel : LevelCfg where
  size := 8
  assoc := 1
  lineSize := 8
  wt := false
  wa := true
  method := .lru
  prefetch := 0
  hitLat := 1
  busLat := 0

/-- The vector configuration (95_test_vectors.md section 1) with a smaller memory, table and cache. -/
def tiny : Config :=
  { Config.vectors with physMemSize := 0x3000, tableSize := 4, levels := [tinyLevel], maxStrLen := 3 }

/-- The page table of the vectors: pages 1 and 2 onto themselves. -/
def pages : List (Nat × PageEntry) := [(1, ⟨1, true⟩), (2, ⟨2, true⟩)]

/-- The dword `0xF1E2D3C4B5A69788` at `0x2000` (42_load_store.md), and "A" at `0x2FFF`, the end of memory. -/
def image : Memory :=
  [(0x2000, 0x88), (0x2001, 0x97), (0x2002, 0xA6), (0x2003, 0xB5), (0x2004, 0xC4), (0x2005, 0xD3), (0x2006, 0xE2), (0x2007, 0xF1),
   (0x2FFF, 0x41)]

/-- A machine at `pc` with registers set. -/
def at_ (pc : Word) (rs : List (Reg × Word)) : State :=
  rs.foldl (fun s x => writeReg x.1 x.2 s)
    (State.launch { cfg := tiny, entry := pc, regs := Vector.replicate 32 0, pt := pages, free := [0], pmem := image, input := [7] })

/-- The state `exec` answers. -/
def after (i : Instr) (s : State) : State :=
  match exec i s with
  | .next t => t
  | .fault _ => s
  | .refused _ => s

def a0After (i : Instr) (s : State) : Word := readReg (after i s) 10
def dwordAfter (i : Instr) (s : State) : List Byte := (List.range 8).map fun k => (after i s).view (0x2000 + k)

/-! ### One instruction -/

theorem test_lui : a0After (.lui 10 0x80000) (at_ 0x1000 []) = 0xFFFFFFFF80000000 := by decide +kernel
theorem test_auipc : a0After (.auipc 10 0xFFFFF) (at_ 0x1000 []) = 0 := by decide +kernel
theorem test_addi : a0After (.addi 10 11 (-9)) (at_ 0 [(11, 7)]) = 0xFFFFFFFFFFFFFFFE := by decide +kernel
theorem test_slti : a0After (.slti 10 11 0) (at_ 0 [(11, 0xFFFFFFFFFFFFFFFF)]) = 1 := by decide +kernel
theorem test_sltiu : a0After (.sltiu 10 11 (-1)) (at_ 0 [(11, 5)]) = 1 := by decide +kernel
theorem test_xori : a0After (.xori 10 11 (-1)) (at_ 0 [(11, 0xFF)]) = 0xFFFFFFFFFFFFFF00 := by decide +kernel
theorem test_ori : a0After (.ori 10 11 (-2033)) (at_ 0 [(11, 0xF0)]) = 0xFFFFFFFFFFFFF8FF := by decide +kernel
theorem test_andi : a0After (.andi 10 11 0x7F0) (at_ 0 [(11, 0x123456789ABCDEF0)]) = 0x6F0 := by decide +kernel
theorem test_slli : a0After (.slli 10 11 63) (at_ 0 [(11, 1)]) = 0x8000000000000000 := by decide +kernel
theorem test_srli : a0After (.srli 10 11 4) (at_ 0 [(11, 0x8000000000000000)]) = 0x0800000000000000 := by decide +kernel
theorem test_srai : a0After (.srai 10 11 4) (at_ 0 [(11, 0x8000000000000000)]) = 0xF800000000000000 := by decide +kernel
theorem test_add : a0After (.add 10 11 12) (at_ 0 [(11, 0x7FFFFFFFFFFFFFFF), (12, 1)]) = 0x8000000000000000 := by decide +kernel
theorem test_sub : a0After (.sub 10 11 12) (at_ 0 [(11, 0), (12, 1)]) = 0xFFFFFFFFFFFFFFFF := by decide +kernel
theorem test_sll : a0After (.sll 10 11 12) (at_ 0 [(11, 1), (12, 65)]) = 2 := by decide +kernel
theorem test_slt : a0After (.slt 10 11 12) (at_ 0 [(11, 0x8000000000000000), (12, 1)]) = 1 := by decide +kernel
theorem test_sltu : a0After (.sltu 10 11 12) (at_ 0 [(11, 0x8000000000000000), (12, 1)]) = 0 := by decide +kernel
theorem test_xor : a0After (.xor 10 11 12) (at_ 0 [(11, 0xF0F0), (12, 0xFF00)]) = 0x0FF0 := by decide +kernel
theorem test_srl : a0After (.srl 10 11 12) (at_ 0 [(11, 0xF000000000000000), (12, 68)]) = 0x0F00000000000000 := by decide +kernel
theorem test_sra : a0After (.sra 10 11 12) (at_ 0 [(11, 0xF000000000000000), (12, 68)]) = 0xFF00000000000000 := by decide +kernel
theorem test_or : a0After (.or 10 11 12) (at_ 0 [(11, 0xF0F0), (12, 0xFF00)]) = 0xFFF0 := by decide +kernel
theorem test_and : a0After (.and 10 11 12) (at_ 0 [(11, 0xF0F0), (12, 0xFF00)]) = 0xF000 := by decide +kernel
theorem test_addiw : a0After (.addiw 10 11 1) (at_ 0 [(11, 0x7FFFFFFF)]) = 0xFFFFFFFF80000000 := by decide +kernel
theorem test_slliw : a0After (.slliw 10 11 31) (at_ 0 [(11, 1)]) = 0xFFFFFFFF80000000 := by decide +kernel
theorem test_srliw : a0After (.srliw 10 11 4) (at_ 0 [(11, 0xFFFFFFFF80000000)]) = 0x08000000 := by decide +kernel
theorem test_sraiw : a0After (.sraiw 10 11 4) (at_ 0 [(11, 0x80000000)]) = 0xFFFFFFFFF8000000 := by decide +kernel
theorem test_addw : a0After (.addw 10 11 12) (at_ 0 [(11, 0xFFFFFFFF), (12, 2)]) = 1 := by decide +kernel
theorem test_subw : a0After (.subw 10 11 12) (at_ 0 [(11, 0), (12, 0x80000000)]) = 0xFFFFFFFF80000000 := by decide +kernel
theorem test_sllw : a0After (.sllw 10 11 12) (at_ 0 [(11, 1), (12, 33)]) = 2 := by decide +kernel
theorem test_srlw : a0After (.srlw 10 11 12) (at_ 0 [(11, 0xFFFFFFF0), (12, 36)]) = 0x0FFFFFFF := by decide +kernel
theorem test_sraw : a0After (.sraw 10 11 12) (at_ 0 [(11, 0xFFFFFFF0), (12, 36)]) = 0xFFFFFFFFFFFFFFFF := by decide +kernel
theorem test_mul : a0After (.mul 10 11 12) (at_ 0 [(11, 0x100000000), (12, 0x100000001)]) = 0x100000000 := by decide +kernel
theorem test_mulh : a0After (.mulh 10 11 12) (at_ 0 [(11, 0x100000000), (12, 0x100000000)]) = 1 := by decide +kernel
theorem test_div : a0After (.div 10 11 12) (at_ 0 [(11, 0xFFFFFFFFFFFFFFF9), (12, 2)]) = 0xFFFFFFFFFFFFFFFD := by decide +kernel
theorem test_rem : a0After (.rem 10 11 12) (at_ 0 [(11, 0xFFFFFFFFFFFFFFF9), (12, 2)]) = 0xFFFFFFFFFFFFFFFF := by decide +kernel
theorem test_beq : (after (.beq 10 11 8) (at_ 0x100 [(10, 3), (11, 3)])).fCur.pc = 0x108 := by decide +kernel
theorem test_bne : (after (.bne 10 11 (-8)) (at_ 0x100 [(10, 1), (11, 0)])).fCur.pc = 0xF8 := by decide +kernel
theorem test_blt : (after (.blt 10 11 16) (at_ 0x100 [(10, 0xFFFFFFFFFFFFFFFF), (11, 0)])).fCur.pc = 0x110 := by decide +kernel
theorem test_bge : (after (.bge 10 11 (-4)) (at_ 0x100 [(10, 0), (11, 0xFFFFFFFFFFFFFFFF)])).fCur.pc = 0xFC := by decide +kernel
theorem test_bltu : (after (.bltu 10 11 12) (at_ 0x100 [(10, 0xFFFFFFFFFFFFFFFF), (11, 0)])).fCur.pc = 0x104 := by decide +kernel
theorem test_bgeu : (after (.bgeu 10 11 2048) (at_ 0x100 [(10, 5), (11, 5)])).fCur.pc = 0x900 := by decide +kernel
theorem test_jal : (let t := after (.jal 1 0x800) (at_ 0x100 []); (t.fCur.pc, readReg t 1)) = (0x900, 0x104) := by decide +kernel
theorem test_jalr_same_register : (let t := after (.jalr 10 10 0) (at_ 0x200 [(10, 0x300)]); (t.fCur.pc, readReg t 10)) = (0x300, 0x204) := by
  decide +kernel
theorem test_lb : a0After (.lb 10 11 0) (at_ 0x100 [(11, 0x2000)]) = 0xFFFFFFFFFFFFFF88 := by decide +kernel
theorem test_lh : a0After (.lh 10 11 0) (at_ 0x100 [(11, 0x2000)]) = 0xFFFFFFFFFFFF9788 := by decide +kernel
theorem test_lw : a0After (.lw 10 11 0) (at_ 0x100 [(11, 0x2000)]) = 0xFFFFFFFFB5A69788 := by decide +kernel
theorem test_ld : a0After (.ld 10 11 0) (at_ 0x100 [(11, 0x2000)]) = 0xF1E2D3C4B5A69788 := by decide +kernel
theorem test_lbu : a0After (.lbu 10 11 0) (at_ 0x100 [(11, 0x2000)]) = 0x88 := by decide +kernel
theorem test_lhu : a0After (.lhu 10 11 0) (at_ 0x100 [(11, 0x2000)]) = 0x9788 := by decide +kernel
theorem test_lwu : a0After (.lwu 10 11 4) (at_ 0x100 [(11, 0x2000)]) = 0xF1E2D3C4 := by decide +kernel
theorem test_sb : dwordAfter (.sb 11 12 0) (at_ 0x100 [(11, 0x2000), (12, 0x1234)]) = [0x34, 0x97, 0xA6, 0xB5, 0xC4, 0xD3, 0xE2, 0xF1] := by
  decide +kernel
theorem test_sh : dwordAfter (.sh 11 12 2) (at_ 0x100 [(11, 0x2000), (12, 0x1234)]) = [0x88, 0x97, 0x34, 0x12, 0xC4, 0xD3, 0xE2, 0xF1] := by
  decide +kernel
theorem test_sw : dwordAfter (.sw 11 12 4) (at_ 0x100 [(11, 0x2000), (12, 0xDEADBEEF)]) = [0x88, 0x97, 0xA6, 0xB5, 0xEF, 0xBE, 0xAD, 0xDE] := by
  decide +kernel
theorem test_sd : dwordAfter (.sd 11 12 (-8)) (at_ 0x100 [(11, 0x2008), (12, 0x1122334455667788)]) = [0x88, 0x77, 0x66, 0x55, 0x44, 0x33, 0x22, 0x11] := by
  decide +kernel

/-- R187: the corners, and R21: `x0` stays 0. -/
theorem test_div_corners :
    a0After (.div 10 11 12) (at_ 0 [(11, 5)]) = 0xFFFFFFFFFFFFFFFF ∧ a0After (.rem 10 11 12) (at_ 0 [(11, 5)]) = 5 ∧
    a0After (.div 10 11 12) (at_ 0 [(11, 0x8000000000000000), (12, 0xFFFFFFFFFFFFFFFF)]) = 0x8000000000000000 ∧
    a0After (.rem 10 11 12) (at_ 0 [(11, 0x8000000000000000), (12, 0xFFFFFFFFFFFFFFFF)]) = 0 := by decide +kernel

theorem test_x0 : readReg (after (.addi 0 11 5) (at_ 0 [(11, 7)])) 0 = 0 := by decide +kernel

/-- R263, R264, R265, R267, R269, R270. -/
theorem test_ecall_prints :
    (after .ecall (at_ 0 [(10, 5)])).out = [.printInt 5] ∧
    (after .ecall (at_ 0 [(10, 0x141), (17, 1)])).out = [.printChar 0x41] ∧
    (after .ecall (at_ 0 [(10, 0x2000), (17, 2)])).out = [.printStr [0x88, 0x97, 0xA6] true] ∧
    (after .ecall (at_ 0 [(10, 0x2006), (17, 2)])).out = [.printStr [0xE2, 0xF1] false] := by decide +kernel

theorem test_ecall_others :
    a0After .ecall (at_ 0 [(17, 3)]) = 7 ∧ (after .ecall (at_ 0 [(10, 9), (17, 93)])).status = .exited ∧
    (after .ecall (at_ 0x40 [(17, 5)])).status = .fatal (.unknownSyscall 0x40 5) ∧
    (after .ecall (at_ 0 [(10, 0x2FFF), (17, 2)])).status = .fatal (.translationError .writeBack .unmapped 0x3000 1) := by decide +kernel

/-! ### States that meet the hypotheses of the statements

`Ready` states, `Sound`, `Ordered` and `Coherent` states, and steps with the instruction the statement speaks of in the stage it
speaks of. -/

/-- The state a step answers. -/
def nextOf (s : State) : State :=
  match step s with
  | .next t => t
  | .fault _ => s
  | .refused _ => s

/-- The step answers a next state. -/
def steps_ (s : State) : Bool :=
  match step s with
  | .next _ => true
  | .fault _ => false
  | .refused _ => false

theorem step_of {s : State} (h : steps_ s = true) : step s = .next (nextOf s) := by
  unfold steps_ at h; unfold nextOf
  split at h <;> simp_all

/-- `p` of what an option holds. -/
def holds {α : Type} (o : Option α) (p : α → Bool) : Bool :=
  match o with
  | none => true
  | some x => p x

theorem of_holds {α : Type} {o : Option α} {p : α → Bool} (h : holds o p = true) (x : α) (hx : o = some x) : p x = true := by
  subst hx; exact h

/-- `State.Ordered`, computed. -/
def ordered (s : State) : Bool :=
  holds s.eCur.slot (fun e => decide (e.inst.addr = e.pc ∧ decode s.cfg.shamt6 e.inst.word = .ok e.inst.op)) &&
  holds s.mCur.slot (fun x => decide (x.inst.addr = x.pc ∧ decode s.cfg.shamt6 x.inst.word = .ok x.inst.op)) &&
  holds s.wCur.slot (fun x => decide (x.inst.addr = x.pc ∧ decode s.cfg.shamt6 x.inst.word = .ok x.inst.op)) &&
  holds s.eCur.slot (fun e => decide (e.inst.op = .ecall → s.fCur.bubble = true ∧ s.dCur.slot = none)) &&
  holds s.mCur.slot (fun x => decide (x.inst.op = .ecall → s.fCur.bubble = true ∧ s.dCur.slot = none ∧ s.eCur.slot = none)) &&
  holds s.wCur.slot (fun x => decide (x.inst.op = .ecall →
    s.fCur.bubble = true ∧ s.dCur.slot = none ∧ s.eCur.slot = none ∧ s.mCur.slot = none)) &&
  holds s.dCur.slot (fun d => decide (preDecode d.word = .jalr → s.fCur.bubble = true)) &&
  holds s.eCur.slot (fun e => decide (e.inst.op.isJalr = true → s.fCur.bubble = true ∧ s.dCur.slot = none)) &&
  holds s.dCur.slot (fun d => !d.predTaken) && holds s.eCur.slot (fun e => decide (e.predTaken = true → e.inst.op.isBranch = true)) &&
  (!s.fCur.bubble || (match s.dCur.slot with | some d => decide (preDecode d.word = .jalr) | none => false) ||
    (match s.eCur.slot with | some e => e.inst.op.isJalr || decide (e.inst.op = .ecall) | none => false) ||
    (match s.mCur.slot with | some x => decide (x.inst.op = .ecall) | none => false) ||
    (match s.wCur.slot with | some x => decide (x.inst.op = .ecall) | none => false))

theorem of_ordered {s : State} (h : ordered s = true) : s.Ordered := by
  simp only [ordered, Bool.and_eq_true] at h
  obtain ⟨⟨⟨⟨⟨⟨⟨⟨⟨⟨h1, h2⟩, h3⟩, h4⟩, h5⟩, h6⟩, h7⟩, h8⟩, h9⟩, h10⟩, h11⟩ := h
  refine ⟨fun e he => of_decide_eq_true (of_holds h1 e he), fun x hx => of_decide_eq_true (of_holds h2 x hx),
    fun x hx => of_decide_eq_true (of_holds h3 x hx), fun e he => of_decide_eq_true (of_holds h4 e he),
    fun x hx => of_decide_eq_true (of_holds h5 x hx), fun x hx => of_decide_eq_true (of_holds h6 x hx),
    fun d hd => of_decide_eq_true (of_holds h7 d hd), fun e he => of_decide_eq_true (of_holds h8 e he),
    fun d hd hp => ?_, fun e he => of_decide_eq_true (of_holds h10 e he), fun _ hb => ?_⟩
  · have := of_holds h9 d hd
    simp [hp] at this
  · simp only [hb, Bool.not_true, Bool.false_or, Bool.or_eq_true] at h11
    rcases h11 with ((h | h) | h) | h
    · split at h
      · exact .inl ⟨_, by assumption, of_decide_eq_true h⟩
      · exact nomatch h
    · split at h
      · refine .inr (.inl ⟨_, by assumption, ?_⟩)
        simpa using h
      · exact nomatch h
    · split at h
      · exact .inr (.inr (.inl ⟨_, by assumption, of_decide_eq_true h⟩))
      · exact nomatch h
    · split at h
      · exact .inr (.inr (.inr ⟨_, by assumption, of_decide_eq_true h⟩))
      · exact nomatch h

/-- The storage of `at_`. -/
def tinyStorage : Storage := { levels := [Level.empty tinyLevel], pmem := image, fresh := 0 }

theorem tinyStorage_sound : tinyStorage.Sound tiny where
  levels := .cons ⟨rfl, by decide, by decide, by decide, by decide, by decide, by decide, by decide, rfl⟩ .nil
  canonical := by decide
  sized := by decide

theorem tinyLevel_misses (p w : Nat) : findHit ((Level.empty tinyLevel).ways (tinyLevel.set p)) (tinyLevel.tag p) ≠ some w := by
  have hs : tinyLevel.set p = 0 := by simp [LevelCfg.set, tinyLevel, LevelCfg.sets, Nat.mod_one]
  have hw : (Level.empty tinyLevel).ways 0 = [CacheLine.empty 8] := by decide
  rw [hs, hw]
  simp [findHit, CacheLine.empty]

theorem tinyStorage_coherent : tinyStorage.Coherent tiny where
  clean := ⟨fun p w h _ => absurd h (tinyLevel_misses p w), trivial⟩
  inMemory := ⟨fun p w h => absurd h (tinyLevel_misses p w), trivial⟩

/-- A state with the parts of `at_` that `State.Sound` speaks of is sound. -/
theorem sound_of {s : State} (hr : s.regs[0] = 0) (hc : s.cfg = tiny) (hb : s.bht = List.replicate 4 0)
    (hst : s.storage = tinyStorage) (hi : s.sig = Signals.idle)
    (h : (s.fCur.stall || s.dCur.stall || s.eCur.stall || s.eNxt.stall || s.mCur.stall || s.mNxt.stall || s.wCur.stall ||
      s.wNxt.stall) = false) : s.Sound := by
  simp only [Bool.or_eq_false_iff] at h
  obtain ⟨⟨⟨⟨⟨⟨⟨h1, h2⟩, h3⟩, h4⟩, h5⟩, h6⟩, h7⟩, h8⟩ := h
  exact ⟨hr, by rw [hb, hc]; rfl, fun h => by rw [hc] at h; exact absurd h (by decide), by rw [hc, hst]; exact tinyStorage_sound, hi, h1, h2,
    ⟨h3, h4⟩, ⟨h5, h6⟩, ⟨h7, h8⟩⟩

theorem tiny_linesDivide : tiny.linesDivide := by
  intro c hc
  rw [List.mem_singleton.1 hc]
  decide

/-- Before a fetch at `0x1000`, with the last dword of memory in `x11`. -/
def ready : State := at_ 0x1000 [(11, 0x2FF8)]

/-- The statements on single instructions assume `Ready`; `FetchReadsTheView` and the loads and stores assume the rest. -/
theorem test_ready : ready.Ready ∧ ready.cfg.admitted = true ∧ ready.Sound ∧ ready.storage.Coherent ready.cfg ∧
    ready.cfg.linesDivide ∧ ready.cfg.prefetchSafe ∧ ready.fCur.bubble = false :=
  ⟨⟨rfl, rfl⟩, by decide, sound_of (by decide) rfl rfl rfl rfl rfl, tinyStorage_coherent, tiny_linesDivide, .inr (by decide), rfl⟩

/-- The addresses of `FetchReadsTheView`, and of `LoadsLike` and `StoresLike` at the last byte, half, word and dword of memory. -/
theorem test_accesses :
    Machine.translate ready ready.fCur.pc 4 = .ok 0x1000 ∧
    Machine.translate ready (readReg ready 11 + (7 : BitVec 12).signExtend 64) 1 = .ok 0x2FFF ∧
    Machine.translate ready (readReg ready 11 + (6 : BitVec 12).signExtend 64) 2 = .ok 0x2FFE ∧
    Machine.translate ready (readReg ready 11 + (4 : BitVec 12).signExtend 64) 4 = .ok 0x2FFC ∧
    Machine.translate ready (readReg ready 11 + (0 : BitVec 12).signExtend 64) 8 = .ok 0x2FF8 ∧
    (∀ c ∈ tiny.levels, c.off 0x1000 + 4 ≤ c.lineSize ∧ c.off 0x2FFF + 1 ≤ c.lineSize ∧ c.off 0x2FFE + 2 ≤ c.lineSize ∧
      c.off 0x2FFC + 4 ≤ c.lineSize ∧ c.off 0x2FF8 + 8 ≤ c.lineSize) ∧ 0x2FF8 + 8 ≤ tiny.physMemSize := by decide +kernel

/-- The failing accesses of `TranslationRule` and `UntranslatedAccessRaises`: an odd half, a dword that is no multiple of 8 under both
values of `Misaligned8`, a page that is absent and one that is not valid. -/
theorem test_untranslated :
    Machine.translate ready (readReg ready 11 + (1 : BitVec 12).signExtend 64) 2 = .fail .misaligned ∧
    Machine.translate ready 0x2004 8 = .fail .misaligned ∧
    Machine.translate { ready with cfg := { tiny with misaligned8 := .permit } } 0x2004 8 = .ok 0x2004 ∧
    Machine.translate ready (readReg ready 11 + (8 : BitVec 12).signExtend 64) 1 = .fail .unmapped ∧
    Machine.translate { ready with pt := [(3, ⟨1, false⟩)] } 0x3000 1 = .fail .unmapped := by decide +kernel

/-! #### Launch and loader -/

/-- What `LaunchIsSound` assumes. -/
theorem test_launch : tiny.admitted = true ∧ Memory.wf image ∧ ∀ x ∈ image, x.1 < tiny.physMemSize := by decide

/-- What `AllocatePageDrawsAFreeFrame` assumes: an empty pool, and a pool beside pages that use the other frames. -/
theorem test_frames :
    (∃ s : State, s.free = []) ∧ (at_ 0 []).free ≠ [] ∧ (at_ 0 []).free.Nodup ∧ (∀ f ∈ (at_ 0 []).free, f < 2 ^ 64) ∧
    (at_ 0 []).pt.Pairwise (fun x y => x.1 < y.1) ∧ lookupPage (at_ 0 []).pt 3 = none ∧
    FramesApart tiny (at_ 0 []).pt (at_ 0 []).free := by
  refine ⟨⟨{ at_ 0 [] with free := [] }, rfl⟩, by decide, by decide, by decide, by decide, by decide, by decide, by decide, fun f => ?_⟩
  show f ∈ [0] ↔ f < 3 ∧ ∀ x ∈ pages, x.2.ppn.toNat ≠ f
  simp [pages]
  omega

/-- The states of `WhoHasAStep`. -/
theorem test_who_has_a_step :
    (at_ 0x1000 []).Runs ∧ (∃ s : State, s.status = .exited) ∧ (∃ s : State, s.status = .fatal (.frameExhausted 0)) ∧
    ∃ s : State, s.status = .running ∧ s.cfg.admitted = false :=
  ⟨⟨rfl, by decide⟩, ⟨{ at_ 0 [] with status := .exited }, rfl⟩, ⟨{ at_ 0 [] with status := .fatal (.frameExhausted 0) }, rfl⟩,
    ⟨{ at_ 0 [] with cfg := { tiny with pageSize := 3 } }, rfl, by decide⟩⟩

/-- The machine `withFetchWord` places a word in fetches it and performs the whole of it in its next step: `addi a0, a1, -9` of R154
with `a1 = 0` leaves `a0 = -9`, one retired instruction and the next address. -/
theorem test_withFetchWord :
    (let t := nextOf (State.reset.withFetchWord 32 0xFF758513)
     (t.dCur.slot.map fun d => (d.pc, d.word), t.fCur.pc, readReg t 10, t.ctr.instCount)) = (some (0, 0xFF758513#32), 4, -9, 1) := by
  decide +kernel

/-- What a step from `withFetchWord` leaves against the sequential meaning of the instruction: `a0`, `ra`, the bytes at `0x2000`, the
predictor, the host state, the counts and the next address. -/
def ranWhole (w : Nat) : Bool :=
  let s := (at_ 0x1000 [(10, 3), (11, 0x2000), (12, 5), (1, 0x1004), (17, 1)]).withFetchWord 32 w
  let t := nextOf s
  match decodeTableWord 32 w with
  | none => false
  | some i =>
    let u := after i s
    let bytes := fun v : State => (List.range 8).map fun k => v.view (0x2000 + k)
    steps_ s && t.regs == u.regs && bytes t == bytes u && t.bht == u.bht && t.out == u.out && t.status == u.status &&
      t.fCur.pc == u.fCur.pc && t.ctr.instCount == 1 && t.ctr.branchCount == u.ctr.branchCount &&
      t.ctr.branchCorrect == u.ctr.branchCorrect && t.ctr.controlHazards == u.ctr.controlHazards && t.ctr.steps == 1

/-- One word of each family but the divides' corners. -/
theorem test_withFetchWord_runs :
    ([0x12345537, 0xFFFFF517, 0xFF758513, 0x03F59513, 0x40C58533, 0x40C5D53B, 0x02C5E533, 0x00B50463, 0xFEB51CE3, 0x001000EF, 0x00008067].all
      ranWhole && [0x00058503, 0x0045E503, 0x00C59123, 0x00C5A223, 0x00000073].all ranWhole) = true := by decide +kernel

/-- A word that does not decode, and a division by zero under the reset value of `DivCorner`, raise in that step. -/
theorem test_withFetchWord_raises :
    (nextOf (State.reset.withFetchWord 32 0)).status = .fatal (.decodeError 0 0) ∧
    (nextOf (State.reset.withFetchWord 32 0x02C5C533)).status = .fatal (.divFault 0 0 0) := by decide +kernel

/-- R309: the loader stops at the first page it finds no frame for, and the run never starts. -/
theorem test_frameExhausted :
    (let s := loadBytes 0 0x3FFF [1, 2, 3] (at_ 0 [])
     (s.status, s.free, lookupPage s.pt 3, s.view 0xFFF, steps_ s)) =
      (Status.fatal (.frameExhausted 4), [], some ⟨0, true⟩, 1, false) ∧
    (let s := loadBytes 0 0x4FFF [1, 2, 3] { at_ 0 [] with free := [] }
     (s.status, s.storage.pmem)) = (Status.fatal (.frameExhausted 4), image) := by decide +kernel

/-! #### Steps -/

/-- `D` with a word. -/
def inD (pc : Word) (w : InstrWord) : Snap DSlot := Snap.of { pc := pc, word := w, predTaken := false, predNext := pc + 4 }
/-- `E` with an instruction and its operands, predicted not taken. -/
def inE (pc : Word) (i : Instr) (a b : Word) : Snap ESlot :=
  Snap.of { pc := pc, inst := { word := encode i, addr := pc, op := i }, op1 := a, op2 := b, predTaken := false, predNext := pc + 4 }
/-- `M` or `W` with an instruction and its values. -/
def inM (pc : Word) (i : Instr) (e c : Word) : Snap MSlot :=
  Snap.of { pc := pc, inst := { word := encode i, addr := pc, op := i }, valE := e, valC := c, predOK := true }

/-- `s` is as the statements on a step assume: ordered, with a step that does not raise. -/
def quiet (s : State) : Bool := steps_ s && ordered s && !(nextOf s).status.isFatal

theorem of_quiet {s : State} (h : quiet s = true) : s.Ordered ∧ step s = .next (nextOf s) ∧ (nextOf s).status.isFatal = false := by
  simp only [quiet, Bool.and_eq_true, Bool.not_eq_true'] at h
  exact ⟨of_ordered h.1.2, step_of h.1.1, h.2⟩

/-- A full pipeline: `addi`, `add`, `xor` and `sub` in `D` to `W`, each reading what the older ones write. -/
def full : State :=
  { at_ 0x1010 [(11, 0x2000)] with
    dCur := inD 0x100C 0x00C58533#32, eCur := inE 0x1008 (.xor 11 11 12) 1 2, mCur := inM 0x1004 (.add 12 11 11) 4 0
    wCur := inM 0x1000 (.sub 13 11 12) 5 0 }

/-- `StepKeepsSound`, `StepKeepsOrdered`, `StepKeepsCoherent`, `StepRunsDecodedInstruction`, `OnlyWriteBackWritesRegisters`,
`ForwardingGivesTheNewestValue`, `CycleCost`, `TimingNeverChangesResults`. -/
theorem test_step_full :
    full.Sound ∧ full.storage.Coherent full.cfg ∧ full.Runs ∧ full.Ordered ∧ step full = .next (nextOf full) ∧
    (nextOf full).status.isFatal = false :=
  ⟨sound_of (by decide) rfl rfl rfl rfl rfl, tinyStorage_coherent, ⟨rfl, by decide⟩, of_quiet (by decide +kernel)⟩

theorem test_step_full_values :
    readReg (nextOf full) 13 ≠ readReg full 13 ∧
    (nextOf full).eCur.slot.map (fun e => (e.inst.op, e.op1, e.op2)) = some (.add 10 11 12, 3, 4) ∧
    (nextOf full).ctr.cycleCount = 100 ∧ full.untimed = { full with ctr := { full.ctr with cycleCount := 9 } }.untimed := by
  decide +kernel

/-- A branch in `E` that was predicted not taken, with a word in `D`. -/
def branching (a : Word) : State := { at_ 0x1008 [] with dCur := inD 0x1004 0x00C58533#32, eCur := inE 0x1000 (.beq 10 11 16) a 3 }

/-- `MispredictionFlushes` and `OnlyBranchesTrainThePredictor`, mispredicted and rightly predicted; `FetchBlock`, blocked by the fetch
of a JALR. -/
theorem test_step_branch :
    quiet (branching 3) = true ∧ branchOutcome 0x1000 3 3 (.beq 10 11 16) = some (true, 0x1010) ∧ (nextOf (branching 3)).fCur.pc = 0x1010 ∧
    quiet (branching 2) = true ∧ branchOutcome 0x1000 2 3 (.beq 10 11 16) = some (false, 0x1004) ∧
    (branching 2).dCur.slot ≠ none ∧ (nextOf (branching 3)).bht ≠ (branching 3).bht := by decide +kernel

theorem test_step_fetch_jalr :
    let s := loadWords 0 0x1000 [0x00008067#32] (at_ 0x1000 [])
    quiet s = true ∧ s.fCur.bubble = false ∧ (nextOf s).fCur.bubble = true := by decide +kernel

/-- A JALR in `E`. -/
def jumping (a : Word) (odd : JalrOdd) : State :=
  { at_ 0x1004 [] with
    cfg := { tiny with jalrOdd := odd }, fCur := { pc := 0x1004, bubble := true, stall := false }, eCur := inE 0x1000 (.jalr 1 10 0) a 0 }

/-- `JalrRedirects`, to an even target and to an odd one under `clear`; `FetchBlock`, cleared by a redirect. -/
theorem test_step_jalr :
    quiet (jumping 0x2000 .fault) = true ∧ quiet (jumping 0x2001 .clear) = true ∧ (nextOf (jumping 0x2001 .clear)).fCur.pc = 0x2000 ∧
    (nextOf (jumping 0x2000 .fault)).fCur.bubble = false := by decide +kernel

/-- An ECALL in `D`, and one in `W` with the function `a7`. -/
def callingD : State := { at_ 0x1004 [] with dCur := inD 0x1000 0x00000073#32 }
def callingW (a7 : Word) : State :=
  { at_ 0x1004 [] with fCur := { pc := 0x1004, bubble := true, stall := false }, wCur := inM 0x1000 .ecall 0x2000 a7 }

/-- `EcallDrainsAndReleases`, `OnlyEcallReachesTheHost`, `OnlyWriteBackWritesRegisters` and `FetchBlock` for ECALL. -/
theorem test_step_ecall :
    quiet callingD = true ∧ (nextOf callingD).eCur.slot ≠ none ∧ (nextOf callingD).fCur.bubble = true ∧ quiet (callingW 0) = true ∧
    (nextOf (callingW 0)).out ≠ [] ∧ (nextOf (callingW 0)).fCur = { pc := 0x1004, bubble := false, stall := false } ∧
    quiet (callingW 93) = true ∧ (nextOf (callingW 93)).status = .exited ∧ quiet (callingW 3) = true ∧
    readReg (nextOf (callingW 3)) 10 ≠ readReg (callingW 3) 10 := by decide +kernel

/-- A load in `E` and a reader of its register in `D`. -/
def loading_ : State := { at_ 0x1008 [] with dCur := inD 0x1004 0x00C58533#32, eCur := inE 0x1000 (.ld 11 10 0) 0x2000 0 }

/-- `LoadUseHoldsOneCycle`, with the next step. -/
theorem test_step_load_use :
    quiet loading_ = true ∧ (nextOf loading_).dCur = loading_.dCur ∧ quiet (nextOf loading_) = true ∧
    (nextOf (nextOf loading_)).eCur.slot.map (fun e => e.op1) = some 0xF1E2D3C4B5A69788 := by decide +kernel

/-- A blocked fetch, and the rest of `DecodeReadsItsOperands`: an empty `D`, a word that does not decode and one that does. -/
theorem test_blocked_and_decode :
    (jumping 0 .fault).fCur.bubble = true ∧ (jumping 0 .fault).dCur.slot = none ∧ decode true 0#32 = .reject .noType ∧
    decode true 0x00C58533#32 = .ok (.add 10 11 12) := by decide

/-- `FatalCycleEndsAtOnce`, `EveryFatalErrorHasItsCause` and `ErrorsComeInStageOrder`: one state for each kind. -/
theorem test_fatal_steps :
    (nextOf (at_ 0x3000 [])).status = .fatal (.translationError .fetch .unmapped 0x3000 4) ∧
    (nextOf (at_ 0x1002 [])).status = .fatal (.translationError .fetch .misaligned 0x1002 4) ∧
    (nextOf { at_ 0x1004 [] with dCur := inD 0x1000 0#32 }).status = .fatal (.decodeError 0x1000 0) ∧
    (nextOf { at_ 0x1004 [] with cfg := { tiny with divCorner := .fault }, eCur := inE 0x1000 (.div 10 11 12) 5 0 }).status =
      .fatal (.divFault 0x1000 5 0) ∧
    (nextOf (jumping 0x2001 .fault)).status = .fatal (.jalrOddTarget 0x1000 0x2001) ∧
    (nextOf { at_ 0x1004 [] with mCur := inM 0x1000 (.ld 10 11 0) 0x3000 0 }).status =
      .fatal (.translationError .memory .unmapped 0x3000 8) ∧
    (nextOf (callingW 5)).status = .fatal (.unknownSyscall 0x1000 5) := by decide +kernel

theorem test_fatal_others :
    (nextOf { callingW 2 with wCur := inM 0x1000 .ecall 0x3000 2 }).status = .fatal (.translationError .writeBack .unmapped 0x3000 1) ∧
    (nextOf { at_ 0x1000 [] with cfg := { tiny with physMemSize := 0x1000 } }).status = .fatal (.boundsError .memory 0x1000 8) ∧
    (nextOf { at_ 0x1004 [] with cfg := { tiny with misaligned8 := .permit }, mCur := inM 0x1000 (.ld 10 11 0) 0x2004 0 }).status =
      .fatal (.boundsError (.cache 1) 0x2004 8) ∧
    (fetchStage { callingW 5 with sig := Signals.idle }).status.isFatal = false := by decide +kernel

/-- What `StagesMakeTheWholeLife` assumes: a machine between two cycles, and `D` with the prediction Fetch makes. -/
theorem test_stages :
    ready.Ready ∧ (nextFetch ready 0x1000 (Instr.beq 10 11 8).fetchKind).predTaken = false ∧
    (match exec (.beq 10 11 8) (atPhase .decode (issue (.beq 10 11 8) ⟨0x1000, 0x00B50463#32, false, 0x1004⟩ ready)) with
      | .next t => t.eNxt.slot.map fun e => (e.op1, e.op2)
      | .fault _ => none
      | .refused _ => none) = some (0, 0x2FF8) :=
  ⟨⟨rfl, rfl⟩, by decide +kernel, by decide +kernel⟩

/-- A load or a store in `M` before a branch in `W` that was rightly predicted, for `InstructionsAdvanceAndRetire`. -/
def retiring (i : Instr) : State :=
  { at_ 0x1010 [] with mCur := inM 0x1004 i 0x2006 0x1234, wCur := inM 0x1000 (.beq 10 10 4) 0 0 }

/-- `InstructionsAdvanceAndRetire`: an ordinary step (`full`, whose `W` writes `x13`), a signed and an unsigned load and a store in `M`,
a branch in `W`, and bubbles in `E` and `W`. -/
theorem test_step_retire :
    quiet full = true ∧ readReg (nextOf full) 13 = 5 ∧ (nextOf full).ctr.instCount = 1 ∧ (nextOf full).fCur.pc = 0x1014 ∧
    quiet (retiring (.lh 10 11 0)) = true ∧
    (nextOf (retiring (.lh 10 11 0))).wCur.slot.map (fun x => x.valE) = some 0xFFFFFFFFFFFFF1E2 ∧
    quiet (retiring (.lhu 10 11 0)) = true ∧ (nextOf (retiring (.lhu 10 11 0))).wCur.slot.map (fun x => x.valE) = some 0xF1E2 ∧
    quiet (retiring (.sh 11 12 0)) = true ∧ (nextOf (retiring (.sh 11 12 0))).view 0x2007 = 0x12 ∧
    (nextOf (retiring (.sh 11 12 0))).ctr.branchCorrect = 1 ∧ quiet (branching 2) = true ∧ (branching 2).wCur.slot = none := by
  decide +kernel

/-! #### Storage -/

/-- The storage and answer parts of a reply. -/
def served (r : Reply) : Bool :=
  match r with
  | .ok _ _ _ _ => true
  | .bounds _ _ _ _ => false

theorem served_ok {r : Reply} (h : served r = true) : ∃ st buf hit time, r = .ok st buf hit time := by
  cases r
  · exact ⟨_, _, _, _, rfl⟩
  · exact nomatch h

/-- `ReadsReturnTheView`, `WritesChangeTheirBytesOnly`, `RequestsInsideMemorySucceed`, `PrefetchesAreNotCounted`: a read and a write at
the last bytes of memory, and a prefetch. -/
theorem test_requests :
    (∃ st buf hit time, handleTop tiny ⟨0x2FF8, 8, true, [], false⟩ tinyStorage = .ok st buf hit time) ∧
    (∃ st buf hit time, handleTop tiny ⟨0x2FFF, 1, false, [7], false⟩ tinyStorage = .ok st buf hit time) ∧
    (∃ st buf hit time, handleTop tiny ⟨0x2FF8, 8, true, [], true⟩ tinyStorage = .ok st buf hit time) :=
  ⟨served_ok (by decide +kernel), served_ok (by decide +kernel), served_ok (by decide +kernel)⟩

/-- `BoundsErrorsComeFirst`: a request one byte past the line, and one byte past memory. -/
theorem test_bounds :
    tinyStorage.levels ≠ [] ∧ tinyLevel.lineSize < tinyLevel.off 0x2001 + 8 ∧ tiny.physMemSize < 0x2FFF + 2 := by decide

/-- Lines for `VictimRule`: an invalid one; all valid with the least recent promoted; all promoted. -/
def lineOf (valid promoted : Bool) (recency : Nat) : CacheLine :=
  { valid := valid, dirty := false, tag := recency, recency := recency, promoted := promoted, data := [] }

theorem test_victim :
    victim .lru [lineOf true false 3, lineOf false false 0, lineOf false false 0] = 1 ∧
    victim .lru [lineOf true true 3, lineOf true true 1, lineOf true false 2] = 1 ∧
    victim .twoQueue [lineOf true true 3, lineOf true true 1, lineOf true false 2] = 2 ∧
    victim .twoQueue [lineOf true true 3, lineOf true true 1, lineOf true true 2] = 1 := by decide

/-- `NoWriteAllocateInstallsNothing` and `TimesAndWritebacks`: a write miss at a level without write-allocate, a hit, a miss with a
clean victim and one with a dirty victim. -/
def dirtyLevel : Level := { Level.empty tinyLevel with sets := [[{ CacheLine.empty 8 with valid := true, dirty := true, tag := 0 }]] }

def lowerOf (r : Req) (st : Storage) : Reply := memHandle tiny r st

theorem test_misses :
    served (lowerOf ⟨8, 8, false, List.replicate 8 1, false⟩ ⟨[], [], 0⟩) = true ∧
    findHit ((Level.empty tinyLevel).ways 0) (tinyLevel.tag 8) = none ∧
    served (serve 1 { tinyLevel with wa := false } lowerOf ⟨8, 8, false, List.replicate 8 1, false⟩ (Level.empty tinyLevel) ⟨[], [], 0⟩) = true ∧
    findHit (dirtyLevel.ways 0) 0 = some 0 ∧
    served (serve 1 tinyLevel lowerOf ⟨0, 8, true, [], false⟩ dirtyLevel ⟨[], [], 0⟩) = true ∧
    served (serve 1 tinyLevel lowerOf ⟨8, 8, true, [], false⟩ dirtyLevel ⟨[], [], 0⟩) = true ∧
    served (serve 1 tinyLevel lowerOf ⟨8, 8, true, [], false⟩ (Level.empty tinyLevel) ⟨[], [], 0⟩) = true := by decide +kernel

/-- The operands of `MultiplyDivideResults`, `DivisionCorners` and `JumpResults` at the ends of their clauses. -/
theorem test_clauses :
    (0x8000000000000000 : Word).toInt = -2 ^ 63 ∧ (0xFFFFFFFFFFFFFFFF : Word).toInt = -1 ∧ (0x101 : Word).toNat % 2 = 1 ∧
    (0x100 : Word).toNat % 2 = 0 ∧ (5 : Word) ∉ ([0, 1, 2, 3, 4, 93] : List Word) ∧ (at_ 0 []).input ≠ [] ∧
    { at_ 0 [] with input := [] }.input = [] := by decide

/-- The strings of `EcallPrintsString`: two bytes and a NUL, three bytes at the cap, none before an unmapped byte. -/
theorem test_strings :
    (List.range 3).map (fun k => readByte (at_ 0 []) (0x2006 + BitVec.ofNat 64 k)) = [some 0xE2, some 0xF1, some 0] ∧
    (List.range 3).map (fun k => readByte (at_ 0 []) (0x2000 + BitVec.ofNat 64 k)) = [some 0x88, some 0x97, some 0xA6] ∧
    (List.range 2).map (fun k => readByte (at_ 0 []) (0x2FFF + BitVec.ofNat 64 k)) = [some 0x41, none] := by decide +kernel

end Sys2Proof.Tests
end

namespace Sys2Proof.Machine

/-! SUPPORT. Every storage request keeps the storage sound (20_memory.md R71 to R87): the shape of each level, one way per tag, the
order of recency, dirty lines, the counts, and canonical memory within its size. One lemma per function of the chain. -/

/-! ### Replacing one line of a level -/

/-- A position outside the level holds no line; inside, replacing it replaces one entry of one set. -/
theorem Level.setLine_split (lv : Level) (s w : Nat) (l : CacheLine) :
    (lv.setLine s w l).sets = lv.sets ∨
      ∃ before left right after, lv.sets = before ++ (left ++ lv.line s w :: right) :: after ∧
        lv.ways s = left ++ lv.line s w :: right ∧
        (lv.setLine s w l).sets = before ++ (left ++ l :: right) :: after := by
  by_cases hs : s < lv.sets.length
  · have hways : lv.ways s = lv.sets[s] := by simp [Level.ways, hs]
    by_cases hw : w < (lv.ways s).length
    · have hline : (lv.ways s)[w] = lv.line s w := by simp [Level.line, hw]
      have hsplit : lv.ways s = (lv.ways s).take w ++ lv.line s w :: (lv.ways s).drop (w + 1) := by
        rw [← hline, List.getElem_cons_drop, List.take_append_drop]
      refine .inr ⟨lv.sets.take s, (lv.ways s).take w, (lv.ways s).drop (w + 1), lv.sets.drop (s + 1), ?_, hsplit, ?_⟩
      · rw [← hsplit, hways, List.getElem_cons_drop, List.take_append_drop]
      · rw [Level.setLine, List.set_eq_take_append_cons_drop, if_pos hs, List.set_eq_take_append_cons_drop, if_pos hw]
    · left
      rw [Level.setLine, List.set_eq_of_length_le (Nat.le_of_not_lt hw), hways, List.set_getElem_self]
  · left
    simp [Level.setLine, List.set_eq_of_length_le (Nat.le_of_not_lt hs)]

/-- A valid line is one of the level's own. -/
theorem Level.exists_set_of_valid {lv : Level} {s w : Nat} (h : (lv.line s w).valid = true) :
    ∃ ws ∈ lv.sets, lv.line s w ∈ ws := by
  rcases lv.setLine_split s w (CacheLine.empty 0) with _ | ⟨before, left, right, after, hsets, -, -⟩
  · simp only [Level.line, Level.ways, List.getD_eq_getElem?_getD] at h ⊢
    cases hs : lv.sets[s]? with
    | none => simp [hs, CacheLine.empty] at h
    | some ws =>
      cases hw : ws[w]? with
      | none => simp [hs, hw, CacheLine.empty] at h
      | some l =>
        exact ⟨ws, List.mem_of_getElem? hs, by simpa [hw] using List.mem_of_getElem? hw⟩
  · exact ⟨left ++ lv.line s w :: right, by simp [hsets], by simp⟩

/-- The way that holds a tag is valid and has the tag (R72). -/
theorem findHit_line {lv : Level} {s tag w : Nat} (h : findHit (lv.ways s) tag = some w) :
    (lv.line s w).valid = true ∧ (lv.line s w).tag = tag := by
  obtain ⟨hw, hp, -⟩ := List.findIdx?_eq_some_iff_getElem.mp h
  simpa [Level.line, hw] using hp

/-- A set without a hit has no valid line with the tag (R72). -/
theorem findHit_none {ws : List CacheLine} {tag : Nat} (h : findHit ws tag = none) :
    ∀ x ∈ ws, x.valid = true → x.tag ≠ tag := by
  simpa [findHit] using h

/-! ### A level that is serving a request -/

/-- `Level.Sound.oneWay` speaks of two lines in either order. -/
theorem swapTags {a b : CacheLine} (h : a.valid = true → b.valid = true → a.tag ≠ b.tag) :
    b.valid = true → a.valid = true → b.tag ≠ a.tag := fun hb ha => (h ha hb).symm

/-- `Level.Sound.order` speaks of two lines in either order. -/
theorem swapRecencies {a b : CacheLine} (h : a.valid = true → b.valid = true → a.recency ≠ b.recency) :
    b.valid = true → a.valid = true → b.recency ≠ a.recency := fun hb ha => (h ha hb).symm

/-- A level that has counted a request and not yet served it: every line is older than its tick (R79). -/
structure Level.Arrived (c : LevelCfg) (lv : Level) : Prop extends Level.Sound c lv where
  older : ∀ ws ∈ lv.sets, ∀ l ∈ ws, l.recency < lv.tick

theorem Level.Sound.arrivedHit {c : LevelCfg} {lv : Level} (h : lv.Sound c) (p : Bool) :
    ((lv.arrive p).countHit p).Arrived c :=
  { h with
    recent := fun ws hws l hl => Nat.le_succ_of_le (h.recent ws hws l hl)
    older := fun ws hws l hl => Nat.lt_succ_of_le (h.recent ws hws l hl)
    counted := by have := h.counted; simp only [Level.arrive, Level.countHit]; omega }

theorem Level.Sound.arrivedMiss {c : LevelCfg} {lv : Level} (h : lv.Sound c) (p : Bool) :
    ((lv.arrive p).countMiss p).Arrived c :=
  { h with
    recent := fun ws hws l hl => Nat.le_succ_of_le (h.recent ws hws l hl)
    older := fun ws hws l hl => Nat.lt_succ_of_le (h.recent ws hws l hl)
    counted := by have := h.counted; simp only [Level.arrive, Level.countMiss]; omega }

theorem Level.Arrived.countWriteback {c : LevelCfg} {lv : Level} (h : lv.Arrived c) : lv.countWriteback.Arrived c := { h with }

/-- A line that may stand at `(s, w)`, whatever its data: the most recent one, with the tag of the line it replaces or a tag that no
valid line of the set has. -/
structure Level.Takes (c : LevelCfg) (lv : Level) (s w : Nat) (l : CacheLine) : Prop where
  valid : l.valid = true
  newest : l.recency = lv.tick
  clean : c.wt = true → l.dirty = false
  oneWay : ((lv.line s w).valid = true ∧ (lv.line s w).tag = l.tag) ∨ ∀ x ∈ lv.ways s, x.valid = true → x.tag ≠ l.tag

theorem Level.Takes.withData {c : LevelCfg} {lv : Level} {s w : Nat} {l : CacheLine} (h : lv.Takes c s w l) (data : List Byte) :
    lv.Takes c s w { l with data := data } := { h with }

theorem Level.Takes.written {c : LevelCfg} {lv : Level} {s w : Nat} {l : CacheLine} (h : lv.Takes c s w l) (hwt : c.wt = false) :
    lv.Takes c s w { l with dirty := true } := { h with clean := fun e => absurd (hwt.symm.trans e) (by decide) }

/-- No other way of the set has the tag of a line that takes a place in it. -/
theorem Level.Takes.tag_ne {c : LevelCfg} {lv : Level} {s w : Nat} {l : CacheLine} (h : lv.Takes c s w l)
    {left right : List CacheLine} (hways : lv.ways s = left ++ lv.line s w :: right)
    (hold : (lv.ways s).Pairwise fun a b => a.valid = true → b.valid = true → a.tag ≠ b.tag) :
    ∀ x ∈ left ++ right, x.valid = true → x.tag ≠ l.tag := by
  intro x hx hv
  rcases h.oneWay with ⟨hov, hot⟩ | hnone
  · rw [hways, List.pairwise_middle fun h1 h2 h3 => (h1 h3 h2).symm] at hold
    exact hot ▸ ((List.pairwise_cons.mp hold).1 x hx hov hv).symm
  · exact hnone x (by rw [hways]; simp only [List.mem_append, List.mem_cons] at hx ⊢; tauto) hv

/-- What holds of every line, and of the line that takes a place, holds of every line afterwards. -/
theorem Level.forall_setLine {P : CacheLine → Prop} {lv : Level} {s w : Nat} {l : CacheLine}
    (h : ∀ ws ∈ lv.sets, ∀ x ∈ ws, P x) (hl : P l) : ∀ ws ∈ (lv.setLine s w l).sets, ∀ x ∈ ws, P x := by
  rcases lv.setLine_split s w l with e | ⟨before, left, right, after, hsets, -, e⟩
  · rwa [e]
  · rw [hsets] at h
    rw [e]
    simp only [List.forall_mem_append, List.forall_mem_cons] at h ⊢
    obtain ⟨hbefore, ⟨hleft, -, hright⟩, hafter⟩ := h
    exact ⟨hbefore, ⟨hleft, hl, hright⟩, hafter⟩

/-- Replacing a line by one that may stand there leaves the level sound. -/
theorem Level.Arrived.setLine {c : LevelCfg} {lv : Level} {s w : Nat} {l : CacheLine} (h : lv.Arrived c)
    (hl : lv.Takes c s w l) (hdata : l.data.length = c.lineSize) : (lv.setLine s w l).Sound c where
  sets := by simpa [Level.setLine] using h.sets
  ways := by
    have hways := h.ways
    rcases lv.setLine_split s w l with e | ⟨before, left, right, after, hsets, -, e⟩
    · rwa [e]
    · rw [hsets] at hways
      rw [e]
      simpa only [List.forall_mem_append, List.forall_mem_cons, List.length_append, List.length_cons] using hways
  data := Level.forall_setLine h.data hdata
  oneWay := by
    have hone := h.oneWay
    rcases lv.setLine_split s w l with e | ⟨before, left, right, after, hsets, hways, e⟩
    · rwa [e]
    · have hset : lv.ways s ∈ lv.sets := by rw [hsets, hways]; simp
      have htag := hl.tag_ne hways (hone _ hset)
      rw [hsets] at hone
      rw [e]
      simp only [List.forall_mem_append, List.forall_mem_cons] at hone ⊢
      obtain ⟨hbefore, hold, hafter⟩ := hone
      refine ⟨hbefore, ?_, hafter⟩
      rw [List.pairwise_middle swapTags, List.pairwise_cons] at hold ⊢
      exact ⟨fun x hx _ hv => (htag x hx hv).symm, hold.2⟩
  recent := Level.forall_setLine h.recent (Nat.le_of_eq hl.newest)
  order := by
    have horder := h.order
    have holder := h.older
    rcases lv.setLine_split s w l with e | ⟨before, left, right, after, hsets, -, e⟩
    · rwa [e]
    · rw [hsets] at horder holder
      rw [e]
      simp only [List.flatten_append, List.flatten_cons, List.append_assoc, List.cons_append] at horder ⊢
      rw [← List.append_assoc, List.pairwise_middle swapRecencies, List.pairwise_cons] at horder ⊢
      refine ⟨fun x hx _ _ => ?_, horder.2⟩
      have hlt : x.recency < lv.tick := by
        simp only [List.mem_append, List.mem_flatten] at hx
        rcases hx with (⟨ws, hws, hx⟩ | hx) | hx | ⟨ws, hws, hx⟩
        · exact holder ws (by simp [hws]) x hx
        · exact holder (left ++ lv.line s w :: right) (by simp) x (by simp [hx])
        · exact holder (left ++ lv.line s w :: right) (by simp) x (by simp [hx])
        · exact holder ws (by simp [hws]) x hx
      exact hl.newest ▸ (Nat.ne_of_lt hlt).symm
  dirtyValid := Level.forall_setLine h.dirtyValid fun _ => hl.valid
  clean := fun hwt => Level.forall_setLine (h.clean hwt) (hl.clean hwt)
  counted := h.counted

/-! ### Sound storage below a level, sound answers -/

/-- The storage of the levels `cs` and memory is sound: `Storage.Sound` of the rest of a chain. -/
def Storage.SoundFrom (cfg : Config) (cs : List LevelCfg) (st : Storage) : Prop := st.Sound { cfg with levels := cs }

theorem Storage.SoundFrom.push {cfg : Config} {c : LevelCfg} {cs : List LevelCfg} {lv : Level} {st : Storage}
    (hst : st.SoundFrom cfg cs) (hlv : lv.Sound c) : (push lv st).SoundFrom cfg (c :: cs) :=
  { hst with levels := .cons hlv hst.levels }

/-- A chain with a level has its top level, and the storage below it is sound. -/
theorem Storage.SoundFrom.top {cfg : Config} {c : LevelCfg} {cs : List LevelCfg} {st : Storage} (h : st.SoundFrom cfg (c :: cs)) :
    ∃ lv rest, st.levels = lv :: rest ∧ lv.Sound c ∧ Storage.SoundFrom cfg cs { st with levels := rest } := by
  obtain ⟨levels, pmem, fresh⟩ := st
  obtain ⟨hlevels, hcanonical, hsized⟩ := h
  cases hlevels with
  | cons hlv hrest => exact ⟨_, _, rfl, hlv, hrest, hcanonical, hsized⟩

/-- A request carries as many bytes as it writes. -/
def Req.Carries (r : Req) : Prop := r.isRead = false → r.buf.length = r.bytes

/-- The answer leaves the storage sound, and a read that is served delivers the bytes it asked for. -/
structure Reply.Sound (cfg : Config) (cs : List LevelCfg) (r : Req) (rep : Reply) : Prop where
  storage : rep.storage.SoundFrom cfg cs
  filled : ∀ st buf hit t, rep = .ok st buf hit t → r.isRead = true → buf.length = r.bytes

theorem Reply.Sound.of_bounds {cfg : Config} {cs : List LevelCfg} {r : Req} {st : Storage} {l : LayerName} {a n : Nat}
    (h : st.SoundFrom cfg cs) : (Reply.bounds st l a n).Sound cfg cs r where
  storage := h
  filled := by intro _ _ _ _ he; cases he

theorem Reply.Sound.of_write {cfg : Config} {cs : List LevelCfg} {r : Req} {st : Storage} {buf : List Byte} {hit : Bool} {t : Nat}
    (h : st.SoundFrom cfg cs) (hr : r.isRead = false) : (Reply.ok st buf hit t).Sound cfg cs r where
  storage := h
  filled := by intro _ _ _ _ _ hr'; simp [hr] at hr'

theorem Reply.Sound.of_read {cfg : Config} {cs : List LevelCfg} {r : Req} {st : Storage} {buf : List Byte} {hit : Bool} {t : Nat}
    (h : st.SoundFrom cfg cs) (hbuf : buf.length = r.bytes) : (Reply.ok st buf hit t).Sound cfg cs r where
  storage := h
  filled := by intro _ _ _ _ he _; injection he with _ he; exact he ▸ hbuf

/-- A layer that answers every request soundly. -/
def KeepsSound (cfg : Config) (cs : List LevelCfg) (f : Req → Storage → Reply) : Prop :=
  ∀ r st, r.Carries → st.SoundFrom cfg cs → (f r st).Sound cfg cs r

/-! ### The functions of the chain, from memory up -/

theorem memHandle_keepsSound (cfg : Config) (cs : List LevelCfg) : KeepsSound cfg cs (memHandle cfg) := by
  intro r st hr hst
  unfold memHandle
  split
  · exact .of_bounds hst
  · next hfits =>
    split
    · exact .of_read hst (Memory.length_readBytes ..)
    · next hw =>
      have hw : r.isRead = false := by simpa using hw
      refine .of_write { hst with canonical := Memory.wf_writeBytes _ hst.canonical _, sized := ?_ } hw
      exact Memory.sized_writeBytes _ hst.sized (by rw [hr hw]; exact Nat.le_of_not_lt hfits)

@[simp] theorem length_freeData (n k : Nat) : (freeData n k).length = n := by simp [freeData]

theorem length_slice {data : List Byte} {off n : Nat} (h : off + n ≤ data.length) : (slice data off n).length = n := by
  simp only [slice, List.length_take, List.length_drop]; omega

theorem length_splice {data buf : List Byte} {off : Nat} (h : off + buf.length ≤ data.length) :
    (splice data off buf).length = data.length := by
  simp only [splice, List.length_append, List.length_take, List.length_drop]; omega

section Level

variable {cfg : Config} {c : LevelCfg} {cs : List LevelCfg} {lower : Req → Storage → Reply} {r : Req} {lv : Level} {below : Storage}

theorem failedLine_sound {w : Nat} {line : CacheLine} {l : LayerName} {a n : Nat} (hlv : lv.Arrived c)
    (hline : lv.Takes c (c.set r.addr) w line) (hst : below.SoundFrom cfg cs) :
    (failedLine c lv (c.set r.addr) w line below l a n).Sound cfg (c :: cs) r := by
  have hbelow : Storage.SoundFrom cfg cs { below with fresh := below.fresh + c.lineSize } := { hst with }
  exact .of_bounds (hbelow.push (hlv.setLine (hline.withData _) (length_freeData _ _)))

theorem writeLine_sound (hl : KeepsSound cfg cs lower) {w : Nat} {line : CacheLine} {hit : Bool} {time : Nat}
    (hlv : lv.Arrived c) (hline : lv.Takes c (c.set r.addr) w line) (hdata : line.data.length = c.lineSize)
    (hr : r.Carries) (hw : r.isRead = false) (hfits : c.off r.addr + r.bytes ≤ c.lineSize) (hst : below.SoundFrom cfg cs) :
    (writeLine c lower r lv below w line hit time).Sound cfg (c :: cs) r := by
  have hlen : (splice line.data (c.off r.addr) r.buf).length = c.lineSize := by
    rw [length_splice (by rw [hr hw, hdata]; exact hfits), hdata]
  unfold writeLine
  dsimp only
  split
  · have hlow := hl { r with isRead := false } below (fun _ => hr hw) hst
    split <;> rename_i he <;> rw [he] at hlow
    · exact .of_write (hlow.storage.push (hlv.setLine (hline.withData _) hlen)) hw
    · exact failedLine_sound hlv (hline.withData _) hlow.storage
  · next hwt =>
    exact .of_write (hst.push (hlv.setLine ((hline.written (by simpa using hwt)).withData _) hlen)) hw

/-- The data of a valid line fills it. -/
theorem Level.Sound.length_data {s w : Nat} (h : lv.Sound c) (hv : (lv.line s w).valid = true) :
    (lv.line s w).data.length = c.lineSize := by
  obtain ⟨ws, hws, hl⟩ := Level.exists_set_of_valid hv
  exact h.data ws hws _ hl

/-- A valid line is clean under write-through (R82). -/
theorem Level.Sound.clean_line {s w : Nat} (h : lv.Sound c) (hv : (lv.line s w).valid = true) (hwt : c.wt = true) :
    (lv.line s w).dirty = false := by
  obtain ⟨ws, hws, hl⟩ := Level.exists_set_of_valid hv
  exact h.clean hwt ws hws _ hl

theorem hitPath_sound (hl : KeepsSound cfg cs lower) {w : Nat} (hlv : lv.Arrived c)
    (hhit : findHit (lv.ways (c.set r.addr)) (c.tag r.addr) = some w)
    (hr : r.Carries) (hfits : c.off r.addr + r.bytes ≤ c.lineSize) (hst : below.SoundFrom cfg cs) :
    (hitPath c lower r lv below w).Sound cfg (c :: cs) r := by
  obtain ⟨hvalid, -⟩ := findHit_line hhit
  have hdata := hlv.length_data hvalid
  have hline : ∀ promoted, lv.Takes c (c.set r.addr) w
      { lv.line (c.set r.addr) w with recency := lv.tick, promoted := promoted } := fun _ =>
    { valid := hvalid, newest := rfl, clean := hlv.clean_line hvalid, oneWay := .inl ⟨hvalid, rfl⟩ }
  unfold hitPath
  dsimp only
  split
  · exact .of_read (hst.push (hlv.setLine (hline _) hdata)) (length_slice (by rw [hdata]; exact hfits))
  · next hw => exact writeLine_sound hl hlv (hline _) hdata hr (by simpa using hw) hfits hst

theorem forwardMiss_sound (hl : KeepsSound cfg cs lower) (hlv : lv.Sound c) (hr : r.Carries) (hw : r.isRead = false)
    (hst : below.SoundFrom cfg cs) : (forwardMiss lower r lv below).Sound cfg (c :: cs) r := by
  have hlow := hl r below hr hst
  unfold forwardMiss
  split <;> rename_i he <;> rw [he] at hlow
  · exact .of_write (hlow.storage.push hlv) hw
  · exact .of_bounds (hlow.storage.push hlv)

theorem writeback_sound (hl : KeepsSound cfg cs lower) {s w : Nat} (hlv : lv.Sound c) (hst : below.SoundFrom cfg cs) :
    (writeback c lower r (lv.line s w) below).storage.SoundFrom cfg cs := by
  unfold writeback
  split
  · next hdirty =>
    have hvalid : (lv.line s w).valid = true := by simp only [Bool.and_eq_true] at hdirty; exact hdirty.1
    exact (hl _ below (fun _ => hlv.length_data hvalid) hst).storage
  · exact hst

theorem fillPath_sound (hl : KeepsSound cfg cs lower) {w twb : Nat} (hlv : lv.Arrived c)
    (hmiss : findHit (lv.ways (c.set r.addr)) (c.tag r.addr) = none)
    (hr : r.Carries) (hfits : c.off r.addr + r.bytes ≤ c.lineSize) (hst : below.SoundFrom cfg cs) :
    (fillPath c lower r lv below w twb).Sound cfg (c :: cs) r := by
  have hline : ∀ data, lv.Takes c (c.set r.addr) w
      { valid := true, dirty := false, tag := c.tag r.addr, recency := lv.tick, promoted := false, data := data } := fun _ =>
    { valid := rfl, newest := rfl, clean := fun _ => rfl, oneWay := .inr (findHit_none hmiss) }
  have hlow := hl { addr := c.base r.addr, bytes := c.lineSize, isRead := true, buf := [], isPrefetch := r.isPrefetch } below
    (fun he => by cases he) hst
  unfold fillPath
  dsimp only
  split <;> rename_i he <;> rw [he] at hlow
  · exact failedLine_sound hlv (hline _) hlow.storage
  · have hfill := hlow.filled _ _ _ _ rfl rfl
    split
    · exact .of_read (hlow.storage.push (hlv.setLine (hline _) hfill)) (length_slice (by rw [hfill]; exact hfits))
    · next hw => exact writeLine_sound hl hlv (hline _) hfill hr (by simpa using hw) hfits hlow.storage

theorem allocate_sound (hl : KeepsSound cfg cs lower) (hlv : lv.Arrived c)
    (hmiss : findHit (lv.ways (c.set r.addr)) (c.tag r.addr) = none)
    (hr : r.Carries) (hfits : c.off r.addr + r.bytes ≤ c.lineSize) (hst : below.SoundFrom cfg cs) :
    (allocate c lower r lv below).Sound cfg (c :: cs) r := by
  have hlow := writeback_sound (r := r) (s := c.set r.addr) (w := victim c.method (lv.ways (c.set r.addr))) hl hlv.toSound hst
  unfold allocate
  dsimp only
  split <;> rename_i he <;> rw [he] at hlow
  · exact .of_bounds (hlow.push hlv.toSound)
  · split
    · exact fillPath_sound hl hlv.countWriteback hmiss hr hfits hlow
    · exact fillPath_sound hl hlv hmiss hr hfits hlow

theorem serve_sound (hl : KeepsSound cfg cs lower) (i : Nat) (hlv : lv.Sound c) (hr : r.Carries) (hst : below.SoundFrom cfg cs) :
    (serve i c lower r lv below).Sound cfg (c :: cs) r := by
  unfold serve
  split
  · exact .of_bounds (hst.push hlv)
  · next hfits =>
    have hfits := Nat.le_of_not_lt hfits
    dsimp only
    split
    · next w hhit => exact hitPath_sound hl (hlv.arrivedHit _) hhit hr hfits hst
    · next hmiss =>
      split
      · next hforward =>
        have hw : r.isRead = false := by simp only [Bool.and_eq_true, Bool.not_eq_true'] at hforward; exact hforward.1
        exact forwardMiss_sound hl (hlv.arrivedMiss _).toSound hr hw hst
      · exact allocate_sound hl (hlv.arrivedMiss _) hmiss hr hfits hst

theorem prefetchLoop_sound {self : Req → Storage → Reply} (hs : KeepsSound cfg cs self) (base n k : Nat) {st : Storage}
    (hst : st.SoundFrom cfg cs) : (prefetchLoop cfg c self base n k st).storage.SoundFrom cfg cs := by
  induction n generalizing k st with
  | zero => exact hst
  | succ n ih =>
    have hself := hs { addr := base + k * c.lineSize, bytes := c.lineSize, isRead := true, buf := [], isPrefetch := true } st
      (fun he => by cases he) hst
    simp only [prefetchLoop]
    split
    · exact hst
    · split <;> rename_i he <;> rw [he] at hself
      · exact ih _ hself.storage
      · exact hself.storage

theorem withPrefetch_sound {self : Req → Storage → Reply} (hs : KeepsSound cfg cs self) {rep : Reply} (h : rep.Sound cfg cs r) :
    (withPrefetch cfg c self r rep).Sound cfg cs r := by
  cases rep with
  | bounds st l a n => exact h
  | ok st buf hit t =>
    simp only [withPrefetch]
    split
    · exact h
    · have hst : st.SoundFrom cfg cs := h.storage
      have hloop := prefetchLoop_sound (c := c) hs (c.base r.addr) (c.prefetch - 1) 1 hst
      split <;> rename_i he <;> rw [he] at hloop
      · exact ⟨hloop, by intro _ _ _ _ he' hread; injection he' with _ he'; exact he' ▸ h.filled _ _ _ _ rfl hread⟩
      · exact .of_bounds hloop

end Level

/-- Every layer of the chain answers soundly (R67, R69). -/
theorem handle_keepsSound (cfg : Config) (cs : List LevelCfg) (i : Nat) : KeepsSound cfg cs (handle cfg i cs) := by
  induction cs generalizing i with
  | nil => exact memHandle_keepsSound cfg []
  | cons c cs ih =>
    have hself : KeepsSound cfg (c :: cs) fun r' st' =>
        match st'.levels with
        | [] => memHandle cfg r' st'
        | lv :: rest => serve i c (handle cfg (i + 1) cs) r' lv { st' with levels := rest } := by
      intro r st hr hst
      obtain ⟨lv, rest, hlevels, hlv, hbelow⟩ := hst.top
      simp only [hlevels]
      exact serve_sound (ih (i + 1)) i hlv hr hbelow
    intro r st hr hst
    exact withPrefetch_sound hself (hself r st hr hst)

/-- A request of the pipeline keeps the storage sound, whether it is served or raises. -/
theorem handleTop_sound {cfg : Config} {r : Req} {st : Storage} (hr : r.Carries) (h : st.Sound cfg) :
    (handleTop cfg r st).storage.Sound cfg :=
  (handle_keepsSound cfg cfg.levels 1 r st hr h).storage

/-! SUPPORT. The five stages of a cycle as relations (70_reset_and_hazards.md R410 to R432): every state a stage can leave, written out
over the state it began with. What a stage keeps is then one `cases` on the relation. -/

/-! ### Accesses -/

/-- An access that is served changes the storage alone, and keeps it sound. -/
theorem access_ok {stage : Stage} {s s' : State} {v d a : Word} {n t : Nat} {rd : Bool} (h : access stage s v n rd d = .ok s' a t) :
    ∃ st, s' = { s with storage := st } ∧ (s.storage.Sound s.cfg → st.Sound s.cfg) := by
  rcases access_cases h with ⟨k, -, he⟩ | ⟨p, st, buf, hit, time, -, hreq, he⟩ | ⟨p, st, l, b, k, -, -, he⟩
  · cases he
  · injection he with he
    refine ⟨st, he, fun hs => ?_⟩
    have hst := handleTop_sound (r := ⟨p, n, rd, if rd then [] else bytesOf n d, false⟩)
      (fun hr => by simp only at hr; simp [hr]) hs
    rwa [hreq] at hst
  · cases he

/-- An access that raises changes the storage and the status alone, and keeps the storage sound. -/
theorem access_raised {stage : Stage} {s s' : State} {v d : Word} {n : Nat} {rd : Bool} (h : access stage s v n rd d = .raised s') :
    ∃ k st, s' = raise k { s with storage := st } ∧ (s.storage.Sound s.cfg → st.Sound s.cfg) := by
  rcases access_cases h with ⟨k, -, he⟩ | ⟨p, st, buf, hit, time, -, -, he⟩ | ⟨p, st, l, b, k, -, hreq, he⟩
  · injection he with he
    exact ⟨_, s.storage, he, id⟩
  · cases he
  · injection he with he
    refine ⟨_, st, he, fun hs => ?_⟩
    have hst := handleTop_sound (r := ⟨p, n, rd, if rd then [] else bytesOf n d, false⟩)
      (fun hr => by simp only at hr; simp [hr]) hs
    rwa [hreq] at hst

/-! ### Fetch -/

/-- What Fetch can leave (R411, R412). -/
inductive FetchStep (s : State) : State → Prop
  | blocked (hb : s.fCur.bubble = true) :
    FetchStep s { s with dNxt := Snap.bubble, fNxt := { pc := s.fCur.pc, bubble := true, stall := false } }
  | raised (k : FatalKind) (st : Storage) (hst : s.storage.Sound s.cfg → st.Sound s.cfg) :
    FetchStep s (raise k { s with storage := st })
  | fetched (w : InstrWord) (st : Storage) (cost : Nat) (hb : s.fCur.bubble = false)
      (hst : s.storage.Sound s.cfg → st.Sound s.cfg) :
    FetchStep s (report cost (afterFetch s.fCur.pc w { s with storage := st }))

theorem fetchStage_step (s : State) : FetchStep s (fetchStage s) := by
  rcases fetchStage_cases s with ⟨hb, h⟩ | ⟨hb, s', hf, h⟩ | ⟨hb, s', v, t, hf, h⟩ <;> rw [h]
  · exact .blocked hb
  · obtain ⟨k, st, rfl, hst⟩ := access_raised hf
    exact .raised k st hst
  · obtain ⟨st, rfl, hst⟩ := access_ok hf
    exact .fetched _ st _ hb hst

/-! ### Decode -/

/-- The entry of `E` for the instruction `i` decoded from `d`, with operands `a` and `b` (R420). -/
def decodedSlot (i : Instr) (d : DSlot) (a b : Word) : ESlot :=
  { pc := d.pc, inst := { word := d.word, addr := d.pc, op := i }, op1 := a, op2 := b, predTaken := d.predTaken, predNext := d.predNext }

/-- What Decode can leave (R420 to R422). -/
inductive DecodeStep (s : State) : State → Prop
  | idle (hd : s.dCur.slot = none) : DecodeStep s { s with eNxt := Snap.bubble }
  | raised (k : FatalKind) : DecodeStep s (raise k s)
  | plain (d : DSlot) (i : Instr) (a b : Word) (g : Signals) (hd : s.dCur.slot = some d) (hi : decode s.cfg.shamt6 d.word = .ok i)
      (hjump : i.isJalr = false) (hcall : i ≠ .ecall) :
    DecodeStep s { s with eNxt := Snap.of (decodedSlot i d a b), sig := g }
  | block (d : DSlot) (i : Instr) (a b : Word) (g : Signals) (hd : s.dCur.slot = some d) (hi : decode s.cfg.shamt6 d.word = .ok i)
      (hjump : i.isJalr = true) :
    DecodeStep s { s with eNxt := Snap.of (decodedSlot i d a b), fNxt := { s.fNxt with bubble := true }, sig := g }
  | drain (d : DSlot) (a b : Word) (g : Signals) (hd : s.dCur.slot = some d) (hi : decode s.cfg.shamt6 d.word = .ok .ecall) :
    DecodeStep s { s with eNxt := Snap.of (decodedSlot .ecall d a b), dNxt := Snap.bubble,
                          fNxt := { pc := d.pc + 4, bubble := true, stall := false }, sig := g }

theorem decodeStage_step {s u : State} (h : decodeStage s = .next u) : DecodeStep s u := by
  rcases decodeStage_cases s with ⟨hd, he⟩ | ⟨d, why, -, -, he⟩ | ⟨d, i, hd, hi, he⟩ <;>
    (rw [he] at h; injection h with h; subst h)
  · exact .idle hd
  · exact .raised _
  · cases hissue : (meaningOf i).issue with
    | plain =>
      simp only [decodePart, hissue]
      refine .plain d i _ _ _ hd hi ?_ ?_
      · exact Bool.eq_false_iff.mpr fun e => by simp [(issue_block_iff i).mpr e] at hissue
      · intro e
        simp [(issue_drain_iff i).mpr e] at hissue
    | block =>
      simp only [decodePart, hissue]
      exact .block d i _ _ _ hd hi ((issue_block_iff i).mp hissue)
    | drain =>
      obtain rfl := (issue_drain_iff i).mp hissue
      exact .drain d _ _ _ hd hi

/-! ### Forwarding leaves all of `E.nxt` but its operands -/

/-- An entry of `E` without its operands. -/
def ESlot.bare (e : ESlot) : ESlot := { e with op1 := 0, op2 := 0 }

/-- Forwarding changes operands of `E.nxt` and the marks of R430, nothing else. -/
theorem forward_eq (d : Option Reg) (v : Word) (s : State) :
    ∃ o g, forward d v s = { s with eNxt := { s.eNxt with slot := o }, sig := g } ∧
      o.map ESlot.bare = s.eNxt.slot.map ESlot.bare := by
  unfold forward
  split
  · next r e he => exact ⟨_, _, rfl, by simp [he, ESlot.bare]⟩
  · exact ⟨s.eNxt.slot, s.sig, rfl, rfl⟩

/-! ### Execute -/

/-- The predictor table as it is, or trained by one branch (R465). -/
def Trained (s : State) (bht : List (Fin 4)) : Prop := bht = s.bht ∨ ∃ pc taken, bht = (updatePredictor pc taken s).bht

/-- What Execute can leave (R423, R424, R430, R432): it passes its instruction on, or redirects fetch, or holds a consumer of its
load. -/
inductive ExecuteStep (s : State) : State → Prop
  | idle (he : s.eCur.slot = none) : ExecuteStep s { s with mNxt := Snap.bubble }
  | raised (k : FatalKind) (g : Signals) : ExecuteStep s (raise k { s with sig := g })
  | passed (e : ESlot) (x : MSlot) (o : Option ESlot) (bht : List (Fin 4)) (ctr : Counters) (g : Signals)
      (he : s.eCur.slot = some e) (hpc : x.pc = e.pc) (hinst : x.inst = e.inst) (hbht : Trained s bht)
      (hjump : e.inst.op.isJalr = false) (ho : o.map ESlot.bare = s.eNxt.slot.map ESlot.bare) :
    ExecuteStep s { s with mNxt := Snap.of x, eNxt := { s.eNxt with slot := o }, bht := bht, ctr := ctr, sig := g }
  | redirected (e : ESlot) (x : MSlot) (target : Word) (bht : List (Fin 4)) (ctr : Counters) (g : Signals)
      (he : s.eCur.slot = some e) (hpc : x.pc = e.pc) (hinst : x.inst = e.inst) (hbht : Trained s bht)
      (hcall : e.inst.op ≠ .ecall) :
    ExecuteStep s { s with mNxt := Snap.of x, fNxt := { pc := target, bubble := false, stall := false }, dNxt := Snap.bubble,
                           eNxt := Snap.bubble, bht := bht, ctr := ctr, sig := g }
  | held (e : ESlot) (x : MSlot) (bht : List (Fin 4)) (ctr : Counters) (g : Signals)
      (he : s.eCur.slot = some e) (hpc : x.pc = e.pc) (hinst : x.inst = e.inst) (hbht : Trained s bht)
      (hload : e.inst.op.isLoad = true) :
    ExecuteStep s { s with mNxt := Snap.of x, fNxt := { s.fNxt with stall := true }, dNxt := { s.dNxt with stall := true },
                           eNxt := Snap.bubble, bht := bht, ctr := ctr, sig := g }

/-- A JALR computes a jump or an error (R208). -/
theorem compute_of_isJalr {i : Instr} (h : i.isJalr = true) (cfg : Config) (pc a b : Word) :
    (∃ target link, (meaningOf i).compute cfg pc a b = .jump target link) ∨ ∃ k, (meaningOf i).compute cfg pc a b = .error k := by
  cases i with
  | jalr rd rs1 imm =>
    simp only [meaningOf, jumpingTo]
    split
    · split
      · exact .inr ⟨_, rfl⟩
      · exact .inl ⟨_, _, rfl⟩
    · exact .inl ⟨_, _, rfl⟩
  | _ => cases h

theorem isJalr_of_value {i : Instr} {cfg : Config} {pc a b e c : Word} (h : (meaningOf i).compute cfg pc a b = .value e c) :
    i.isJalr = false :=
  Bool.eq_false_iff.mpr fun hj => by
    rcases compute_of_isJalr hj cfg pc a b with ⟨_, _, hc⟩ | ⟨_, hc⟩ <;> cases h.symm.trans hc

theorem isJalr_of_branch {i : Instr} {cfg : Config} {pc a b actual : Word} {taken : Bool}
    (h : (meaningOf i).compute cfg pc a b = .branch taken actual) : i.isJalr = false :=
  Bool.eq_false_iff.mpr fun hj => by
    rcases compute_of_isJalr hj cfg pc a b with ⟨_, _, hc⟩ | ⟨_, hc⟩ <;> cases h.symm.trans hc

theorem ne_ecall_of_branch {i : Instr} {cfg : Config} {pc a b actual : Word} {taken : Bool}
    (h : (meaningOf i).compute cfg pc a b = .branch taken actual) : i ≠ .ecall := by
  rintro rfl
  cases h

theorem ne_ecall_of_jump {i : Instr} {cfg : Config} {pc a b target link : Word}
    (h : (meaningOf i).compute cfg pc a b = .jump target link) : i ≠ .ecall := by
  rintro rfl
  cases h

/-- What Execute's own part can leave, before forwarding and the hold. -/
theorem executePart_cases {s : State} {e : ESlot} (he : s.eCur.slot = some e) :
    (∃ k g, executePart e.inst.op (meaningOf e.inst.op) (atPhase .execute s) = raise k { s with sig := g }) ∨
    ∃ x bht ctr g, x.pc = e.pc ∧ x.inst = e.inst ∧ Trained s bht ∧
      (e.inst.op.isJalr = false ∧ executePart e.inst.op (meaningOf e.inst.op) (atPhase .execute s) =
        { s with mNxt := Snap.of x, bht := bht, ctr := ctr, sig := g } ∨
       e.inst.op ≠ .ecall ∧ ∃ target, executePart e.inst.op (meaningOf e.inst.op) (atPhase .execute s) =
        redirect target { s with mNxt := Snap.of x, bht := bht, ctr := ctr, sig := g }) := by
  obtain ⟨g, hg⟩ : ∃ g, report (costOf s.cfg.cost e.inst.op.opClass) (atPhase .execute s) = { s with sig := g } := ⟨_, rfl⟩
  simp only [executePart, atPhase_eCur, atPhase_cfg, he, hg]
  generalize hout : executeOp _ _ _ _ _ _ = out
  rcases executeOp_cases hout with ⟨valE, valC, hc, rfl⟩ | ⟨taken, actual, hc, ⟨-, rfl⟩ | ⟨-, rfl⟩⟩ | ⟨target, link, hc, rfl⟩ | ⟨k, -, rfl⟩
  · exact .inr ⟨⟨e.pc, e.inst, valE, valC, true⟩, s.bht, s.ctr, g, rfl, rfl, .inl rfl, .inl ⟨isJalr_of_value hc, rfl⟩⟩
  · exact .inr ⟨⟨e.pc, e.inst, 0, 0, true⟩, (updatePredictor e.pc taken s).bht, s.ctr, g, rfl, rfl, .inr ⟨_, _, rfl⟩,
      .inl ⟨isJalr_of_branch hc, rfl⟩⟩
  · exact .inr ⟨⟨e.pc, e.inst, 0, 0, false⟩, (updatePredictor e.pc taken s).bht, (countHazard s).ctr, g, rfl, rfl, .inr ⟨_, _, rfl⟩,
      .inr ⟨ne_ecall_of_branch hc, actual, rfl⟩⟩
  · exact .inr ⟨⟨e.pc, e.inst, link, 0, true⟩, s.bht, (countHazard s).ctr, g, rfl, rfl, .inl rfl,
      .inr ⟨ne_ecall_of_jump hc, target, rfl⟩⟩
  · exact .inl ⟨k, g, rfl⟩

theorem forward_of_bubble {d : Option Reg} {v : Word} {s : State} (h : s.eNxt.slot = none) : forward d v s = s := by
  cases d <;> simp [forward, h]

/-- No consumer waits in a bubble. -/
theorem loadUse_none (i : Instr) : loadUse i none = false := by cases h : i.dst <;> simp [loadUse, h]

/-- Nothing is forwarded to a bubble, and no bubble is held. -/
theorem afterExecute_of_bubble {i : Instr} {s : State} (h : s.eNxt.slot = none) : afterExecute i s = s := by
  obtain ⟨s', hs', hend⟩ := afterExecute_eq i s
  obtain rfl : s' = s := by
    rcases hs' with rfl | ⟨x, -, -, rfl⟩
    · rfl
    · exact forward_of_bubble h
  rcases hend with ⟨huse, -⟩ | ⟨-, heq⟩
  · rw [h, loadUse_none] at huse
    cases huse
  · exact heq

theorem isLoad_of_loadUse {i : Instr} {o : Option ESlot} (h : loadUse i o = true) : i.isLoad = true := by
  simp only [loadUse, Bool.and_eq_true] at h
  exact h.1

/-- After its own part Execute sets operands of `E.nxt`, or holds the consumer of its load (R423, R430, R432). -/
theorem afterExecute_cases (i : Instr) (s : State) :
    (∃ o g, o.map ESlot.bare = s.eNxt.slot.map ESlot.bare ∧
      afterExecute i s = { s with eNxt := { s.eNxt with slot := o }, sig := g }) ∨
    (i.isLoad = true ∧ ∃ ctr g, afterExecute i s =
      { s with fNxt := { s.fNxt with stall := true }, dNxt := { s.dNxt with stall := true }, eNxt := Snap.bubble, ctr := ctr, sig := g }) := by
  obtain ⟨w, hw, hend⟩ := afterExecute_eq i s
  obtain ⟨o, g, hwo, ho⟩ : ∃ o g, w = { s with eNxt := { s.eNxt with slot := o }, sig := g } ∧
      o.map ESlot.bare = s.eNxt.slot.map ESlot.bare := by
    rcases hw with rfl | ⟨x, -, -, rfl⟩
    · exact ⟨w.eNxt.slot, w.sig, rfl, rfl⟩
    · exact forward_eq i.dst x.valE s
  subst hwo
  rcases hend with ⟨huse, heq⟩ | ⟨-, heq⟩
  · exact .inr ⟨isLoad_of_loadUse huse, _, _, heq⟩
  · exact .inl ⟨o, g, ho, heq⟩

theorem executeStage_step {s u : State} (hs : s.status.isFatal = false) (h : executeStage s = .next u) : ExecuteStep s u := by
  rcases executeStage_cases s with ⟨he, heq⟩ | ⟨e, he, heq⟩ <;> rw [heq] at h
  · injection h with h
    exact h ▸ .idle he
  · obtain ⟨v, hv, hu⟩ := thenStage_next h
    injection hv with hv
    rcases executePart_cases he with ⟨k, g, hpart⟩ | ⟨x, bht, ctr, g, hpc, hinst, hbht, hpart⟩
    · rw [hpart] at hv
      subst hv
      rcases hu with ⟨-, rfl⟩ | ⟨hf, -⟩
      · exact .raised k _
      · cases hf
    · have hf : v.status.isFatal = false := by rcases hpart with ⟨-, hpart⟩ | ⟨-, _, hpart⟩ <;> rw [← hv, hpart] <;> exact hs
      obtain ⟨-, hu⟩ := hu.resolve_left fun hfatal => by simp [hf] at hfatal
      injection hu with hu
      rcases hpart with ⟨hjump, hpart⟩ | ⟨hcall, target, hpart⟩ <;> rw [hpart] at hv <;> subst hv <;> subst hu
      · rcases afterExecute_cases e.inst.op { s with mNxt := Snap.of x, bht := bht, ctr := ctr, sig := g } with
          ⟨o, g', ho, heq⟩ | ⟨hload, ctr', g', heq⟩ <;> rw [heq]
        · exact .passed e x o bht ctr g' he hpc hinst hbht hjump ho
        · exact .held e x bht ctr' g' he hpc hinst hbht hload
      · rw [afterExecute_of_bubble rfl]
        exact .redirected e x target bht ctr g he hpc hinst hbht hcall

/-! ### MemoryAccess -/

/-- What MemoryAccess can leave (R426, R430). -/
inductive MemoryStep (s : State) : State → Prop
  | idle (hm : s.mCur.slot = none) : MemoryStep s { s with wNxt := Snap.bubble }
  | raised (k : FatalKind) (st : Storage) (g : Signals) (hst : s.storage.Sound s.cfg → st.Sound s.cfg) :
    MemoryStep s (raise k { s with storage := st, sig := g })
  | done (x : MSlot) (res : Word) (o : Option ESlot) (st : Storage) (g : Signals) (hm : s.mCur.slot = some x)
      (hst : s.storage.Sound s.cfg → st.Sound s.cfg) (ho : o.map ESlot.bare = s.eNxt.slot.map ESlot.bare) :
    MemoryStep s { s with wNxt := Snap.of { x with valE := res }, eNxt := { s.eNxt with slot := o }, storage := st, sig := g }

/-- What MemoryAccess's own part can leave, before forwarding. -/
theorem memoryPart_cases (m : Meaning) {s : State} {x : MSlot} (hm : s.mCur.slot = some x) :
    ∃ st g, (s.storage.Sound s.cfg → st.Sound s.cfg) ∧
      ((∃ k, memoryPart m (atPhase .memory s) = raise k { s with storage := st, sig := g }) ∨
       ∃ res, memoryPart m (atPhase .memory s) =
        { s with wNxt := Snap.of { x with valE := res }, storage := st, sig := g }) := by
  simp only [memoryPart, atPhase_mCur, hm]
  generalize hout : memoryOp _ _ _ _ = out
  rcases memoryOp_cases hout with ⟨-, rfl⟩ | ⟨n, signed, s', v, t, -, hacc, rfl⟩ | ⟨n, signed, s', -, hacc, rfl⟩ |
    ⟨n, s', v, t, -, hacc, rfl⟩ | ⟨n, s', -, hacc, rfl⟩
  · exact ⟨s.storage, _, id, .inr ⟨_, rfl⟩⟩
  · obtain ⟨st, rfl, hst⟩ := access_ok hacc
    exact ⟨st, _, hst, .inr ⟨_, rfl⟩⟩
  · obtain ⟨k, st, rfl, hst⟩ := access_raised hacc
    exact ⟨st, _, hst, .inl ⟨k, rfl⟩⟩
  · obtain ⟨st, rfl, hst⟩ := access_ok hacc
    exact ⟨st, _, hst, .inr ⟨_, rfl⟩⟩
  · obtain ⟨k, st, rfl, hst⟩ := access_raised hacc
    exact ⟨st, _, hst, .inl ⟨k, rfl⟩⟩

theorem memoryStage_step {s u : State} (hs : s.status.isFatal = false) (h : memoryStage s = .next u) : MemoryStep s u := by
  rcases memoryStage_cases s with ⟨hm, heq⟩ | ⟨x, hm, heq⟩ <;> rw [heq] at h
  · injection h with h
    exact h ▸ .idle hm
  · obtain ⟨v, hv, hu⟩ := thenStage_next h
    injection hv with hv
    obtain ⟨st, g, hst, ⟨k, hpart⟩ | ⟨res, hpart⟩⟩ := memoryPart_cases (meaningOf x.inst.op) hm <;> rw [hpart] at hv <;> subst hv
    · rcases hu with ⟨-, rfl⟩ | ⟨hf, -⟩
      · exact .raised k st _ hst
      · cases hf
    · obtain ⟨-, hu⟩ := hu.resolve_left fun hfatal => by simp [hs] at hfatal
      injection hu with hu
      obtain ⟨o, g', hfwd, ho⟩ := forward_eq x.inst.op.dst res { s with wNxt := Snap.of { x with valE := res }, storage := st, sig := g }
      rw [← hu, show afterMemory x.inst.op { s with wNxt := Snap.of { x with valE := res }, storage := st, sig := g } = _ from hfwd]
      exact .done x res o st g' hm hst ho

/-! ### WriteBack -/

/-- The fetch register after an ECALL at `x` has retired: released if the run goes on (R428). -/
def released (x : MSlot) (status : Status) (f : FReg) : FReg :=
  if status = .running then { pc := x.pc + 4, bubble := false, stall := false } else f

/-- What WriteBack can leave (R427, R428, R430, R262 to R270). -/
inductive WriteBackStep (s : State) : State → Prop
  | idle (hw : s.wCur.slot = none) : WriteBackStep s s
  | raised (x : MSlot) (k : FatalKind) (g : Signals) (hw : s.wCur.slot = some x) (hcall : x.inst.op = .ecall) :
    WriteBackStep s (raise k { s with sig := g })
  | commit (x : MSlot) (regs : Vector Word 32) (o : Option ESlot) (ctr : Counters) (g : Signals)
      (hw : s.wCur.slot = some x) (hcall : x.inst.op ≠ .ecall) (hregs : regs = (writeDst x.inst.op.dst x.valE s).regs)
      (ho : o.map ESlot.bare = s.eNxt.slot.map ESlot.bare) :
    WriteBackStep s { s with regs := regs, eNxt := { s.eNxt with slot := o }, ctr := ctr, sig := g }
  | output (x : MSlot) (event : Event) (status : Status) (o : Option ESlot) (ctr : Counters) (g : Signals)
      (hw : s.wCur.slot = some x) (hcall : x.inst.op = .ecall) (hstatus : status = s.status ∨ status = .exited)
      (ho : o.map ESlot.bare = s.eNxt.slot.map ESlot.bare) :
    WriteBackStep s { s with out := s.out ++ [event], status := status, fNxt := released x status s.fNxt,
                             eNxt := { s.eNxt with slot := o }, ctr := ctr, sig := g }
  | input (x : MSlot) (v : Word) (regs : Vector Word 32) (rest : List Word) (o : Option ESlot) (ctr : Counters) (g : Signals)
      (hw : s.wCur.slot = some x) (hcall : x.inst.op = .ecall) (ha7 : x.valC = 3 ∨ x.valC = 4)
      (hregs : regs = (writeReg regA0 v s).regs) (ho : o.map ESlot.bare = s.eNxt.slot.map ESlot.bare) :
    WriteBackStep s { s with regs := regs, input := rest, inputPos := s.inputPos + 1,
                             fNxt := released x s.status s.fNxt, eNxt := { s.eNxt with slot := o }, ctr := ctr, sig := g }

theorem writeReg_eq (r : Reg) (v : Word) (s : State) : writeReg r v s = { s with regs := (writeReg r v s).regs } := by
  unfold writeReg; split <;> rfl

theorem writeDst_eq (d : Option Reg) (v : Word) (s : State) : writeDst d v s = { s with regs := (writeDst d v s).regs } := by
  cases d with
  | none => rfl
  | some r => exact writeReg_eq r v s

theorem nextInput_eq (s : State) : ∃ rest, (nextInput s).2 = { s with input := rest, inputPos := s.inputPos + 1 } := by
  unfold nextInput; split
  · exact ⟨_, rfl⟩
  · exact ⟨s.input, rfl⟩

/-- The write of a register depends on the register file alone. -/
theorem writeReg_regs_congr {s t : State} (h : t.regs = s.regs) (r : Reg) (v : Word) : (writeReg r v t).regs = (writeReg r v s).regs := by
  unfold writeReg; split <;> simp [h]

theorem writeDst_regs_congr {s t : State} (h : t.regs = s.regs) (d : Option Reg) (v : Word) :
    (writeDst d v t).regs = (writeDst d v s).regs := by
  cases d with
  | none => exact h
  | some r => exact writeReg_regs_congr h r v

/-- What retiring an instruction can do to a machine (R427): commit its result, raise in a system call, emit an event, or read an
input value. -/
theorem retireOp_cases (i : Instr) (pc valE valC : Word) (ok : Bool) {s : State} (hs : s.status.isFatal = false) :
    (i ≠ .ecall ∧ ∃ ctr, retireOp i (meaningOf i) pc valE valC ok s = { s with regs := (writeDst i.dst valE s).regs, ctr := ctr }) ∨
    (i = .ecall ∧ ∃ k, retireOp i (meaningOf i) pc valE valC ok s = raise k s) ∨
    (i = .ecall ∧ ∃ event status ctr, (status = s.status ∨ status = .exited) ∧
      retireOp i (meaningOf i) pc valE valC ok s = { s with out := s.out ++ [event], status := status, ctr := ctr }) ∨
    (i = .ecall ∧ (valC = 3 ∨ valC = 4) ∧ ∃ v rest ctr, retireOp i (meaningOf i) pc valE valC ok s =
      { s with regs := (writeReg regA0 v s).regs, input := rest, inputPos := s.inputPos + 1, ctr := ctr }) := by
  cases hretire : (meaningOf i).retire with
  | commit =>
    have hcall : i ≠ .ecall := fun e => by simp [(retire_syscall_iff i).mpr e] at hretire
    refine .inl ⟨hcall, (countInst s).ctr, ?_⟩
    rw [retireOp, hretire, writeDst_eq]
    rfl
  | branch =>
    have hcall : i ≠ .ecall := fun e => by simp [(retire_syscall_iff i).mpr e] at hretire
    refine .inl ⟨hcall, (countBranch ok (countInst s)).ctr, ?_⟩
    rw [retireOp, hretire, dst_of_branch ((retire_branch_iff i).mp hretire)]
    rfl
  | syscall =>
    obtain rfl := (retire_syscall_iff i).mp hretire
    have hgo : ∀ {u : State}, syscall pc valE valC s = u → u.status.isFatal = false →
        retireOp .ecall (meaningOf .ecall) pc valE valC ok s = countInst u := by
      rintro _ rfl hu
      exact if_neg (by simp [hu])
    have hstop : ∀ k, syscall pc valE valC s = raise k s → retireOp .ecall (meaningOf .ecall) pc valE valC ok s = raise k s := by
      intro k he
      have hfatal : (syscall pc valE valC s).status.isFatal = true := by rw [he]; rfl
      exact (if_pos hfatal).trans he
    rcases syscall_cases pc valE valC s with ⟨-, he⟩ | ⟨-, he⟩ | ⟨-, bytes, cut, -, he⟩ | ⟨-, v, -, he⟩ | ⟨ha7, he⟩ | ⟨-, he⟩ |
      ⟨-, -, -, -, -, -, he⟩
    · exact .inr (.inr (.inl ⟨rfl, _, _, _, .inl rfl, hgo he hs⟩))
    · exact .inr (.inr (.inl ⟨rfl, _, _, _, .inl rfl, hgo he hs⟩))
    · exact .inr (.inr (.inl ⟨rfl, _, _, _, .inl rfl, hgo he hs⟩))
    · exact .inr (.inl ⟨rfl, _, hstop _ he⟩)
    · obtain ⟨rest, hrest⟩ := nextInput_eq s
      rw [writeReg_eq, writeReg_regs_congr (nextInput_regs s), hrest] at he
      exact .inr (.inr (.inr ⟨rfl, ha7, _, rest, _, hgo he hs⟩))
    · exact .inr (.inr (.inl ⟨rfl, _, _, _, .inr rfl, hgo he rfl⟩))
    · exact .inr (.inl ⟨rfl, _, hstop _ he⟩)

/-- An ECALL that has retired releases fetch (R428). -/
theorem release_eq {i : Instr} (hcall : i = .ecall) (x : MSlot) (s : State) :
    (if i = .ecall ∧ s.status = .running then { s with fNxt := { pc := x.pc + 4, bubble := false, stall := false } } else s) =
      { s with fNxt := released x s.status s.fNxt } := by
  by_cases hr : s.status = .running
  · rw [if_pos ⟨hcall, hr⟩, released, if_pos hr]
  · rw [if_neg fun h => hr h.2, released, if_neg hr]

/-- What WriteBack's own part can leave, before forwarding. -/
theorem writeBackPart_cases {s : State} {x : MSlot} (hw : s.wCur.slot = some x) (hs : s.status.isFatal = false) :
    let v := writeBackPart x.inst.op (meaningOf x.inst.op) s
    (x.inst.op ≠ .ecall ∧ ∃ regs ctr, regs = (writeDst x.inst.op.dst x.valE s).regs ∧ v = { s with regs := regs, ctr := ctr }) ∨
    (x.inst.op = .ecall ∧ ∃ k, v = raise k s) ∨
    (x.inst.op = .ecall ∧ ∃ event status ctr, (status = s.status ∨ status = .exited) ∧
      v = { s with out := s.out ++ [event], status := status, fNxt := released x status s.fNxt, ctr := ctr }) ∨
    (x.inst.op = .ecall ∧ (x.valC = 3 ∨ x.valC = 4) ∧ ∃ v' regs rest ctr, regs = (writeReg regA0 v' s).regs ∧
      v = { s with regs := regs, input := rest, inputPos := s.inputPos + 1,
                   fNxt := released x s.status s.fNxt, ctr := ctr }) := by
  simp only [writeBackPart, hw, retire_syscall_iff]
  rcases retireOp_cases x.inst.op x.pc x.valE x.valC x.predOK hs with
    ⟨hcall, ctr, he⟩ | ⟨hcall, k, he⟩ | ⟨hcall, event, status, ctr, hstatus, he⟩ | ⟨hcall, ha7, v, rest, ctr, he⟩ <;> rw [he]
  · exact .inl ⟨hcall, _, ctr, rfl, if_neg fun h => hcall h.1⟩
  · exact .inr (.inl ⟨hcall, k, if_neg fun h => by cases h.2⟩)
  · exact .inr (.inr (.inl ⟨hcall, event, status, ctr, hstatus, release_eq hcall x _⟩))
  · exact .inr (.inr (.inr ⟨hcall, ha7, v, _, rest, ctr, rfl, release_eq hcall x _⟩))

theorem writeBackStage_step {s u : State} (hs : s.status.isFatal = false) (h : writeBackStage s = .next u) : WriteBackStep s u := by
  rcases writeBackStage_cases s with ⟨hw, heq⟩ | ⟨x, hw, heq⟩ <;> rw [heq] at h
  · injection h with h
    exact h ▸ .idle hw
  · obtain ⟨v, hv, hu⟩ := thenStage_next h
    injection hv with hv
    obtain ⟨g, hg⟩ : ∃ g, atPhase .writeBack (report 1 s) = { s with sig := g } := ⟨_, rfl⟩
    rw [hg] at hv
    rcases writeBackPart_cases (s := { s with sig := g }) hw hs with ⟨hcall, regs, ctr, hregs, he⟩ | ⟨hcall, k, he⟩ |
      ⟨hcall, event, status, ctr, hstatus, he⟩ | ⟨hcall, ha7, v', regs, rest, ctr, hregs, he⟩ <;> rw [he] at hv <;> subst hv
    · obtain ⟨-, hu⟩ := hu.resolve_left fun hfatal => by simp [hs] at hfatal
      injection hu with hu
      obtain ⟨o, g', hfwd, ho⟩ := forward_eq x.inst.op.dst x.valE
        { s with regs := regs, ctr := ctr, sig := g }
      refine hu ▸ hfwd ▸ ?_
      exact .commit x regs o ctr g' hw hcall (hregs.trans (writeDst_regs_congr (s := s) (t := { s with sig := g }) rfl _ _)) ho
    · rcases hu with ⟨-, rfl⟩ | ⟨hf, -⟩
      · exact .raised x k _ hw hcall
      · cases hf
    · have hf : status.isFatal = false := by rcases hstatus with rfl | rfl <;> simp [hs]
      obtain ⟨-, hu⟩ := hu.resolve_left fun hfatal => by simp [hf] at hfatal
      injection hu with hu
      obtain ⟨o, g', hfwd, ho⟩ := forward_eq x.inst.op.dst x.valE
        { s with out := s.out ++ [event], status := status, fNxt := released x status s.fNxt, ctr := ctr, sig := g }
      refine hu ▸ hfwd ▸ ?_
      exact .output x event status o ctr g' hw hcall hstatus ho
    · obtain ⟨-, hu⟩ := hu.resolve_left fun hfatal => by simp [hs] at hfatal
      injection hu with hu
      obtain ⟨o, g', hfwd, ho⟩ := forward_eq x.inst.op.dst x.valE { s with
        regs := regs, input := rest, inputPos := s.inputPos + 1,
        fNxt := released x s.status s.fNxt, ctr := ctr, sig := g }
      refine hu ▸ hfwd ▸ ?_
      exact .input x v' regs rest o ctr g' hw hcall ha7 (hregs.trans (writeReg_regs_congr (s := s) (t := { s with sig := g }) rfl _ _)) ho

/-! ### What the stages leave alone -/

/-- What every stage leaves alone: the settings, the page table, the pool and the registers `cur` (R29, R41, R42). -/
structure KeepsCur (s u : State) : Prop where
  cfg : u.cfg = s.cfg
  pt : u.pt = s.pt
  free : u.free = s.free
  fCur : u.fCur = s.fCur
  dCur : u.dCur = s.dCur
  eCur : u.eCur = s.eCur
  mCur : u.mCur = s.mCur
  wCur : u.wCur = s.wCur

/-- What Fetch, Decode, Execute and MemoryAccess leave alone: all but the `nxt` registers, the storage, the predictor table, the
counters, the signals, and the status of a machine that raises. -/
structure Untouched (s u : State) : Prop extends KeepsCur s u where
  regs : u.regs = s.regs
  out : u.out = s.out
  input : u.input = s.input
  inputPos : u.inputPos = s.inputPos
  status : u.status = s.status ∨ u.status.isFatal = true

theorem Untouched.start (s : State) : Untouched s { s with sig := Signals.idle } :=
  ⟨⟨rfl, rfl, rfl, rfl, rfl, rfl, rfl, rfl⟩, rfl, rfl, rfl, rfl, .inl rfl⟩

theorem Untouched.fetch {s u v : State} (h : Untouched s u) (hstep : FetchStep u v) : Untouched s v := by
  cases hstep with
  | blocked => exact { h with }
  | raised => exact { h with status := .inr rfl }
  | fetched => exact { h with }

theorem Untouched.decode {s u v : State} (h : Untouched s u) (hstep : DecodeStep u v) : Untouched s v := by
  cases hstep with
  | raised => exact { h with status := .inr rfl }
  | _ => exact { h with }

theorem Untouched.execute {s u v : State} (h : Untouched s u) (hstep : ExecuteStep u v) : Untouched s v := by
  cases hstep with
  | raised => exact { h with status := .inr rfl }
  | _ => exact { h with }

theorem Untouched.memory {s u v : State} (h : Untouched s u) (hstep : MemoryStep u v) : Untouched s v := by
  cases hstep with
  | raised => exact { h with status := .inr rfl }
  | _ => exact { h with }

theorem Untouched.writeBack {s u v : State} (h : Untouched s u) (hstep : WriteBackStep u v) : KeepsCur s v := by
  cases hstep <;> exact { h.toKeepsCur with }

/-! ### A step, stage by stage -/

/-- If the first four stages keep `P` and WriteBack leads from `P` to `Q`, a step ends in a state of `Q`, with the signals cleared if it
has raised and with the update if it has not. -/
theorem step_ends {P Q : State → Prop} {s t : State} (h : step s = .next t) (hstart : P { s with sig := Signals.idle })
    (hfetch : ∀ {u v}, P u → FetchStep u v → P v) (hdecode : ∀ {u v}, P u → DecodeStep u v → P v)
    (hexecute : ∀ {u v}, P u → ExecuteStep u v → P v) (hmemory : ∀ {u v}, P u → MemoryStep u v → P v)
    (hwriteBack : ∀ {u v}, P u → WriteBackStep u v → Q v) (hPQ : ∀ {u}, P u → Q u) :
    ∃ u, Q u ∧ (u.status.isFatal = true ∧ t = { u with sig := Signals.idle } ∨ u.status.isFatal = false ∧ t = updatePipeline u) := by
  obtain ⟨s1, h1, hend⟩ := cycle_next (step_next h).2
  have p1 := hfetch hstart (h1 ▸ fetchStage_step _)
  rcases hend with ⟨f, ht⟩ | ⟨f1, s2, h2, hend⟩
  · exact ⟨s1, hPQ p1, .inl ⟨f, ht⟩⟩
  have p2 := hdecode p1 (decodeStage_step h2)
  rcases hend with ⟨f, ht⟩ | ⟨f2, s3, h3, hend⟩
  · exact ⟨s2, hPQ p2, .inl ⟨f, ht⟩⟩
  have p3 := hexecute p2 (executeStage_step f2 h3)
  rcases hend with ⟨f, ht⟩ | ⟨f3, s4, h4, hend⟩
  · exact ⟨s3, hPQ p3, .inl ⟨f, ht⟩⟩
  have p4 := hmemory p3 (memoryStage_step f3 h4)
  rcases hend with ⟨f, ht⟩ | ⟨f4, s5, h5, hend⟩
  · exact ⟨s4, hPQ p4, .inl ⟨f, ht⟩⟩
  exact ⟨s5, hwriteBack p4 (writeBackStage_step f4 h5), hend⟩

/-! ### Registers and who has a step -/

/-- Settles O36: `writeReg` and `forward` test for `x0` first. -/
theorem registerZeroDiscards : Obligations.RegisterZeroDiscards := by
  intro s v
  refine ⟨readReg_zero s, writeReg_zero v s, ?_, fun r q => readReg_writeReg s r q v, fun r => ?_⟩
  · unfold forward
    split
    · next r e hr he =>
      injection hr with hr
      subst hr
      simp [forwardsTo, ← he]
    · rfl
  · rw [writeReg_eq]

/-- Every stage answers a next state, so a cycle does. -/
theorem cycle_answers (s : State) : ∃ t, cycle s = .next t := by
  have hdecode : ∀ u, ∃ v, decodeStage u = .next v := fun u => by
    rcases decodeStage_cases u with ⟨-, he⟩ | ⟨d, why, -, -, he⟩ | ⟨d, i, -, -, he⟩ <;> exact ⟨_, he⟩
  have hexecute : ∀ u, ∃ v, executeStage u = .next v := fun u => by
    rcases executeStage_cases u with ⟨-, he⟩ | ⟨e, -, he⟩ <;> rw [he]
    · exact ⟨_, rfl⟩
    · exact thenStage_answers ⟨_, rfl⟩ fun _ => ⟨_, rfl⟩
  have hmemory : ∀ u, ∃ v, memoryStage u = .next v := fun u => by
    rcases memoryStage_cases u with ⟨-, he⟩ | ⟨x, -, he⟩ <;> rw [he]
    · exact ⟨_, rfl⟩
    · exact thenStage_answers ⟨_, rfl⟩ fun _ => ⟨_, rfl⟩
  have hwriteBack : ∀ u, ∃ v, writeBackStage u = .next v := fun u => by
    rcases writeBackStage_cases u with ⟨-, he⟩ | ⟨x, -, he⟩ <;> rw [he]
    · exact ⟨_, rfl⟩
    · exact thenStage_answers ⟨_, rfl⟩ fun _ => ⟨_, rfl⟩
  exact thenStage_answers ⟨_, rfl⟩ fun s1 => thenStage_answers (hdecode s1) fun s2 => thenStage_answers (hexecute s2) fun s3 =>
    thenStage_answers (hmemory s3) fun s4 => thenStage_answers (hwriteBack s4) fun _ => ⟨_, rfl⟩

/-- Settles O12: a running machine takes a cycle, which answers; the other statuses and configurations are cases of `step`. -/
theorem whoHasAStep : Obligations.WhoHasAStep := by
  intro s
  refine ⟨fun hruns => ?_, fun hs => ?_, fun k hs => ?_, fun hs hadmitted => ?_⟩
  · rw [step_runs hruns]
    exact cycle_answers s
  all_goals simp [step, *]

/-! ### Only WriteBack writes registers and reaches the host -/

/-- The registers of `u` differ from those of `s` only as R22 lets WriteBack change them. -/
def WritesOnlyBack (s u : State) : Prop :=
  ∀ r, readReg u r ≠ readReg s r → ∃ x, s.wCur.slot = some x ∧
    (x.inst.op.dst = some r ∧ readReg u r = x.valE ∨ x.inst.op = .ecall ∧ r = 10 ∧ (x.valC = 3 ∨ x.valC = 4))

theorem WritesOnlyBack.of_regs {s u : State} (h : u.regs = s.regs) : WritesOnlyBack s u :=
  fun r hne => absurd (readReg_congr h r) hne

theorem readReg_writeDst_ne {s : State} {d : Option Reg} {v : Word} {r : Reg} (h : readReg (writeDst d v s) r ≠ readReg s r) :
    d = some r ∧ readReg (writeDst d v s) r = v := by
  cases d with
  | none => exact absurd rfl h
  | some q =>
    simp only [writeDst, readReg_writeReg] at h ⊢
    split at h
    · next hq => rw [if_pos hq]; exact ⟨by rw [hq.1], rfl⟩
    · exact absurd rfl h

theorem Untouched.writesOnlyBack {s u v : State} (h : Untouched s u) (hstep : WriteBackStep u v) : WritesOnlyBack s v := by
  cases hstep with
  | idle | raised | output => exact .of_regs h.regs
  | commit x regs o ctr g hw hcall hregs ho =>
    intro r hne
    have hread : ∀ q, readReg { u with regs := regs, eNxt := { u.eNxt with slot := o }, ctr := ctr, sig := g } q =
        readReg (writeDst x.inst.op.dst x.valE u) q := readReg_congr hregs
    rw [hread, ← readReg_congr h.regs] at hne
    obtain ⟨hdst, hval⟩ := readReg_writeDst_ne hne
    exact ⟨x, h.wCur ▸ hw, .inl ⟨hdst, (hread r).trans hval⟩⟩
  | input x v regs rest o ctr g hw hcall ha7 hregs ho =>
    intro r hne
    refine ⟨x, h.wCur ▸ hw, .inr ⟨hcall, ?_, ha7⟩⟩
    by_contra hr
    refine hne ((readReg_congr (t := _) hregs r).trans ?_)
    rw [readReg_writeReg_ne u (r := regA0) hr, readReg_congr h.regs]

/-- Settles O17: the four other stages leave the register file alone, and WriteBack writes one register. -/
theorem onlyWriteBackWritesRegisters : Obligations.OnlyWriteBackWritesRegisters := by
  intro s t r h hne
  obtain ⟨u, hu, hend⟩ := step_ends (Q := WritesOnlyBack s) h (Untouched.start s) Untouched.fetch Untouched.decode Untouched.execute
    Untouched.memory Untouched.writesOnlyBack fun hu => .of_regs hu.regs
  rcases hend with ⟨-, rfl⟩ | ⟨-, rfl⟩
  · exact hu r hne
  · exact hu r hne

/-- What a step does to the settings and the host state (R41, R42, R47, R262, R271). -/
def ReachesHostByEcall (s u : State) : Prop :=
  u.cfg = s.cfg ∧ u.pt = s.pt ∧ u.free = s.free ∧
  (u.out = s.out ∨ ∃ e, u.out = s.out ++ [e]) ∧ (u.inputPos = s.inputPos ∨ u.inputPos = s.inputPos + 1) ∧
  (u.out ≠ s.out ∨ u.input ≠ s.input ∨ u.inputPos ≠ s.inputPos ∨ u.status = .exited → ∃ x, s.wCur.slot = some x ∧ x.inst.op = .ecall)

theorem Untouched.not_exited {s u : State} (h : Untouched s u) (hs : s.status = .running) : u.status ≠ .exited := by
  intro he
  rcases h.status with h | h
  · rw [he, hs] at h; cases h
  · rw [he] at h; cases h

theorem Untouched.reachesHost {s u : State} (h : Untouched s u) (hs : s.status = .running) : ReachesHostByEcall s u := by
  refine ⟨h.cfg, h.pt, h.free, .inl h.out, .inl h.inputPos, ?_⟩
  rintro (hne | hne | hne | he)
  · exact absurd h.out hne
  · exact absurd h.input hne
  · exact absurd h.inputPos hne
  · exact absurd he (h.not_exited hs)

theorem Untouched.reachesHost_writeBack {s u v : State} (h : Untouched s u) (hs : s.status = .running) (hstep : WriteBackStep u v) :
    ReachesHostByEcall s v := by
  cases hstep with
  | idle => exact h.reachesHost hs
  | commit => exact h.reachesHost hs
  | raised x k g hw hcall => exact ⟨h.cfg, h.pt, h.free, .inl h.out, .inl h.inputPos, fun _ => ⟨x, h.wCur ▸ hw, hcall⟩⟩
  | output x event _ _ _ _ hw hcall =>
    exact ⟨h.cfg, h.pt, h.free, .inr ⟨event, congrArg (· ++ [event]) h.out⟩, .inl h.inputPos, fun _ => ⟨x, h.wCur ▸ hw, hcall⟩⟩
  | input x _ _ _ _ _ _ hw hcall =>
    exact ⟨h.cfg, h.pt, h.free, .inl h.out, .inr (congrArg (· + 1) h.inputPos), fun _ => ⟨x, h.wCur ▸ hw, hcall⟩⟩

/-- Settles O18: the four other stages leave the host state alone, and WriteBack reaches it for an ECALL alone. -/
theorem onlyEcallReachesTheHost : Obligations.OnlyEcallReachesTheHost := by
  intro s t h
  have hs := (step_next h).1.running
  obtain ⟨u, hu, hend⟩ := step_ends (Q := ReachesHostByEcall s) h (Untouched.start s) Untouched.fetch Untouched.decode
    Untouched.execute Untouched.memory (fun hu => hu.reachesHost_writeBack hs) fun hu => hu.reachesHost hs
  rcases hend with ⟨-, rfl⟩ | ⟨-, rfl⟩
  · exact hu
  · exact hu

/-! ### The predictor table -/

theorem Trained.length {s : State} {bht : List (Fin 4)} (h : Trained s bht) : bht.length = s.bht.length := by
  rcases h with rfl | ⟨pc, taken, rfl⟩
  · rfl
  · exact List.length_set

/-- The one-bit predictor keeps to its two states (R462). -/
theorem oneBitNext_le : ∀ (e : Fin 4) (taken : Bool), e.val ≤ 1 → (oneBitNext e taken).val ≤ 1 := by decide

theorem Config.predInit_le {cfg : Config} (h : cfg.admitted = true) (hone : cfg.predStrategy = .oneBit) : cfg.predInit.val ≤ 1 := by
  simp only [Config.admitted, Bool.and_eq_true] at h
  obtain ⟨⟨-, hinit⟩, -⟩ := h
  simpa [hone] using hinit

theorem Trained.oneBit {s : State} {bht : List (Fin 4)} (h : Trained s bht) (hadmitted : s.cfg.admitted = true)
    (hone : s.cfg.predStrategy = .oneBit) (hs : ∀ e ∈ s.bht, e.val ≤ 1) : ∀ e ∈ bht, e.val ≤ 1 := by
  rcases h with rfl | ⟨pc, taken, rfl⟩
  · exact hs
  · intro e he
    rcases List.mem_or_eq_of_mem_set he with he | rfl
    · exact hs e he
    · have hentry : (bhtEntry s pc).val ≤ 1 := by
        rw [bhtEntry, List.getD_eq_getElem?_getD]
        cases hget : s.bht[bhtIndex s.cfg pc]? with
        | none => exact Config.predInit_le hadmitted hone
        | some e => exact hs e (List.mem_of_getElem? hget)
      rw [hone]
      exact oneBitNext_le _ taken hentry

/-! ### Every stage keeps `State.Sound` -/

/-- What holds of the machine inside a cycle: all of `State.Sound` but the idle signals, under an admitted configuration. -/
structure SoundInside (s : State) : Prop where
  admitted : s.cfg.admitted = true
  sound : State.Sound { s with sig := Signals.idle }

theorem SoundInside.fetch {u v : State} (h : SoundInside u) (hstep : FetchStep u v) : SoundInside v := by
  cases hstep with
  | blocked => exact ⟨h.admitted, { h.sound with }⟩
  | raised _ _ hst => exact ⟨h.admitted, { h.sound with storage := hst h.sound.storage }⟩
  | fetched _ _ _ _ hst => exact ⟨h.admitted, { h.sound with storage := hst h.sound.storage }⟩

theorem SoundInside.decode {u v : State} (h : SoundInside u) (hstep : DecodeStep u v) : SoundInside v := by
  cases hstep with
  | raised => exact ⟨h.admitted, { h.sound with }⟩
  | _ => exact ⟨h.admitted, { h.sound with heldE := ⟨h.sound.heldE.1, rfl⟩ }⟩

theorem SoundInside.execute {u v : State} (h : SoundInside u) (hstep : ExecuteStep u v) : SoundInside v := by
  have htable : ∀ bht, Trained u bht → bht.length = u.cfg.tableSize ∧ (u.cfg.predStrategy = .oneBit → ∀ e ∈ bht, e.val ≤ 1) :=
    fun bht hbht => ⟨hbht.length.trans h.sound.bhtSize, fun hone => hbht.oneBit h.admitted hone (h.sound.oneBit hone)⟩
  cases hstep with
  | idle => exact ⟨h.admitted, { h.sound with heldM := ⟨h.sound.heldM.1, rfl⟩ }⟩
  | raised => exact ⟨h.admitted, { h.sound with }⟩
  | passed _ _ _ bht _ _ _ _ _ hbht =>
    obtain ⟨hsize, hone⟩ := htable bht hbht
    exact ⟨h.admitted, { h.sound with bhtSize := hsize, oneBit := hone, heldM := ⟨h.sound.heldM.1, rfl⟩ }⟩
  | redirected _ _ _ bht _ _ _ _ _ hbht | held _ _ bht _ _ _ _ _ hbht =>
    obtain ⟨hsize, hone⟩ := htable bht hbht
    exact ⟨h.admitted, { h.sound with
      bhtSize := hsize, oneBit := hone, heldM := ⟨h.sound.heldM.1, rfl⟩, heldE := ⟨h.sound.heldE.1, rfl⟩ }⟩

theorem SoundInside.memory {u v : State} (h : SoundInside u) (hstep : MemoryStep u v) : SoundInside v := by
  cases hstep with
  | idle => exact ⟨h.admitted, { h.sound with heldW := ⟨h.sound.heldW.1, rfl⟩ }⟩
  | raised _ _ _ hst => exact ⟨h.admitted, { h.sound with storage := hst h.sound.storage }⟩
  | done _ _ _ _ _ _ hst =>
    exact ⟨h.admitted, { h.sound with storage := hst h.sound.storage, heldW := ⟨h.sound.heldW.1, rfl⟩ }⟩

theorem SoundInside.writeBack {u v : State} (h : SoundInside u) (hstep : WriteBackStep u v) : SoundInside v := by
  cases hstep with
  | idle => exact h
  | raised | output => exact ⟨h.admitted, { h.sound with }⟩
  | commit x regs _ _ _ _ _ hregs =>
    have hx0 : regs[0] = 0 := by rw [hregs, writeDst_cell_zero]; exact h.sound.x0
    exact ⟨h.admitted, { h.sound with x0 := hx0 }⟩
  | input x v regs _ _ _ _ _ _ _ hregs =>
    have hx0 : regs[0] = 0 := by rw [hregs, writeReg_cell_zero]; exact h.sound.x0
    exact ⟨h.admitted, { h.sound with x0 := hx0 }⟩

/-- The update takes over registers that are not held and clears the signals (R450, R451). -/
theorem SoundInside.update {u : State} (h : SoundInside u) : (updatePipeline u).Sound :=
  { h.sound with
    idle := rfl
    heldF := by rw [updatePipeline_fCur]; split; exacts [h.sound.heldF, rfl]
    heldD := by rw [updatePipeline_dCur]; split; exacts [h.sound.heldD, rfl]
    heldE := ⟨h.sound.heldE.2, h.sound.heldE.2⟩
    heldM := ⟨h.sound.heldM.2, h.sound.heldM.2⟩
    heldW := ⟨h.sound.heldW.2, h.sound.heldW.2⟩ }

/-- Settles O14: every stage keeps `SoundInside`, and both ends of a cycle restore the idle signals. -/
theorem stepKeepsSound : Obligations.StepKeepsSound := by
  intro s t hs h
  have hstart : SoundInside { s with sig := Signals.idle } := ⟨(step_next h).1.admitted, { hs with idle := rfl }⟩
  obtain ⟨u, hu, hend⟩ := step_ends (Q := SoundInside) h hstart SoundInside.fetch SoundInside.decode SoundInside.execute
    SoundInside.memory SoundInside.writeBack id
  rcases hend with ⟨-, rfl⟩ | ⟨-, rfl⟩
  · exact hu.sound
  · exact hu.update

/-! SUPPORT and PROOF. Every step keeps the order of the pipeline (70_reset_and_hazards.md R411, R421, R422, R444). The registers of
`Ordered` up to `E` are the front; each stage is held to what the update would make of it. -/

/-! ### What Fetch saw of a word that decodes (R138) -/

theorem fetchKind_of_decodeBranch {w : InstrWord} {i : Instr} (h : decodeBranch w = .ok i) : i.fetchKind = .branch (immSBOf w) := by
  simp only [decodeBranch] at h
  split_ifs at h <;> cases h <;> rfl

theorem fetchKind_of_decodeLoad {w : InstrWord} {i : Instr} (h : decodeLoad w = .ok i) : i.fetchKind = .other := by
  simp only [decodeLoad] at h
  split_ifs at h <;> cases h <;> rfl

theorem fetchKind_of_decodeStore {w : InstrWord} {i : Instr} (h : decodeStore w = .ok i) : i.fetchKind = .other := by
  simp only [decodeStore] at h
  split_ifs at h <;> cases h <;> rfl

theorem fetchKind_of_decodeShiftImm {shamt6 left : Bool} {w : InstrWord} {i : Instr} (h : decodeShiftImm shamt6 w left = .ok i) :
    i.fetchKind = .other := by
  simp only [decodeShiftImm] at h
  split_ifs at h <;> cases h <;> rfl

theorem fetchKind_of_decodeOpImm {shamt6 : Bool} {w : InstrWord} {i : Instr} (h : decodeOpImm shamt6 w = .ok i) :
    i.fetchKind = .other := by
  simp only [decodeOpImm] at h
  split at h
  · cases h; rfl
  split at h
  · exact fetchKind_of_decodeShiftImm h
  split at h
  · cases h; rfl
  split at h
  · cases h; rfl
  split at h
  · cases h; rfl
  split at h
  · exact fetchKind_of_decodeShiftImm h
  split at h <;> cases h <;> rfl

theorem fetchKind_of_decodeOpImm32 {w : InstrWord} {i : Instr} (h : decodeOpImm32 w = .ok i) : i.fetchKind = .other := by
  simp only [decodeOpImm32] at h
  split_ifs at h <;> cases h <;> rfl

theorem fetchKind_of_decodeOpBase {w : InstrWord} {i : Instr} (h : decodeOpBase w = .ok i) : i.fetchKind = .other := by
  simp only [decodeOpBase] at h
  split_ifs at h <;> cases h <;> rfl

theorem fetchKind_of_decodeOp {w : InstrWord} {i : Instr} (h : decodeOp w = .ok i) : i.fetchKind = .other := by
  simp only [decodeOp] at h
  split at h
  · exact fetchKind_of_decodeOpBase h
  · split_ifs at h <;> cases h <;> rfl

theorem fetchKind_of_decodeOp32 {w : InstrWord} {i : Instr} (h : decodeOp32 w = .ok i) : i.fetchKind = .other := by
  simp only [decodeOp32] at h
  split_ifs at h <;> cases h <;> rfl

/-- Fetch, which sees the opcode alone, has made of a word that decodes what the instruction is (R138). -/
theorem preDecode_of_decode {shamt6 : Bool} {w : InstrWord} {i : Instr} (h : decode shamt6 w = .ok i) : preDecode w = i.fetchKind := by
  unfold decode at h
  rcases ite_eq_iff.mp h with ⟨hop, h⟩ | ⟨-, h⟩
  · cases h; simp [preDecode, hop, Instr.fetchKind]
  rcases ite_eq_iff.mp h with ⟨hop, h⟩ | ⟨-, h⟩
  · cases h; simp [preDecode, hop, Instr.fetchKind]
  rcases ite_eq_iff.mp h with ⟨hop, h⟩ | ⟨-, h⟩
  · cases h; simp [preDecode, hop, Instr.fetchKind]
  rcases ite_eq_iff.mp h with ⟨hop, h⟩ | ⟨-, h⟩
  · rcases ite_eq_iff.mp h with ⟨-, h⟩ | ⟨-, h⟩
    · cases h; simp [preDecode, hop, Instr.fetchKind]
    · cases h
  rcases ite_eq_iff.mp h with ⟨hop, h⟩ | ⟨-, h⟩
  · rw [fetchKind_of_decodeBranch h]; simp [preDecode, hop]
  rcases ite_eq_iff.mp h with ⟨hop, h⟩ | ⟨-, h⟩
  · rw [fetchKind_of_decodeLoad h]; simp [preDecode, hop]
  rcases ite_eq_iff.mp h with ⟨hop, h⟩ | ⟨-, h⟩
  · rw [fetchKind_of_decodeStore h]; simp [preDecode, hop]
  rcases ite_eq_iff.mp h with ⟨hop, h⟩ | ⟨-, h⟩
  · rw [fetchKind_of_decodeOpImm h]; simp [preDecode, hop]
  rcases ite_eq_iff.mp h with ⟨hop, h⟩ | ⟨-, h⟩
  · rw [fetchKind_of_decodeOpImm32 h]; simp [preDecode, hop]
  rcases ite_eq_iff.mp h with ⟨hop, h⟩ | ⟨-, h⟩
  · rw [fetchKind_of_decodeOp h]; simp [preDecode, hop]
  rcases ite_eq_iff.mp h with ⟨hop, h⟩ | ⟨-, h⟩
  · rw [fetchKind_of_decodeOp32 h]; simp [preDecode, hop]
  rcases ite_eq_iff.mp h with ⟨hop, h⟩ | ⟨-, h⟩
  · rcases ite_eq_iff.mp h with ⟨-, h⟩ | ⟨-, h⟩
    · cases h; simp [preDecode, hop, Instr.fetchKind]
    · cases h
  · cases h

theorem fetchKind_jalr_iff (i : Instr) : i.fetchKind = .jalr ↔ i.isJalr = true := by cases i <;> simp [Instr.fetchKind, Instr.isJalr]

theorem isBranch_of_fetchKind {i : Instr} {off : BitVec 13} (h : i.fetchKind = .branch off) : i.isBranch = true := by
  cases i <;> simp [Instr.fetchKind] at h <;> rfl

/-- A word that Fetch took for a JALR decodes to a JALR, and no other word does. -/
theorem preDecode_jalr_iff {shamt6 : Bool} {w : InstrWord} {i : Instr} (h : decode shamt6 w = .ok i) :
    preDecode w = .jalr ↔ i.isJalr = true := by
  rw [preDecode_of_decode h, fetchKind_jalr_iff]

/-! ### The front of the pipeline -/

/-- The clauses of `State.Ordered` on the fetch block, `D` and `E` alone. -/
structure FrontOrdered (shamt6 blocked : Bool) (d : Option DSlot) (e : Option ESlot) : Prop where
  inst : ∀ x, e = some x → x.inst.addr = x.pc ∧ decode shamt6 x.inst.word = .ok x.inst.op
  call : ∀ x, e = some x → x.inst.op = .ecall → blocked = true ∧ d = none
  jump : ∀ x, e = some x → x.inst.op.isJalr = true → blocked = true ∧ d = none
  jumpD : ∀ x, d = some x → preDecode x.word = .jalr → blocked = true
  guessD : ∀ x, d = some x → x.predTaken = true → ∃ off, preDecode x.word = .branch off
  guess : ∀ x, e = some x → x.predTaken = true → x.inst.op.isBranch = true

/-- The front of a machine between two cycles. -/
def State.Front (s : State) : Prop := FrontOrdered s.cfg.shamt6 s.fCur.bubble s.dCur.slot s.eCur.slot

theorem State.Ordered.front {s : State} (h : s.Ordered) : s.Front :=
  ⟨h.instE, h.callE, h.jumpE, h.jumpD, h.guessD, h.guessE⟩

/-- Fetch is blocked and the front is empty behind it. -/
def State.Drained (s : State) : Prop := s.fCur.bubble = true ∧ s.dCur.slot = none ∧ s.eCur.slot = none

/-- `D` holds a word that Fetch took for a JALR. -/
def JumpIn (d : Option DSlot) : Prop := ∃ x, d = some x ∧ preDecode x.word = .jalr

/-- `E` holds a JALR or an ECALL. -/
def BlockerIn (e : Option ESlot) : Prop := ∃ x, e = some x ∧ (x.inst.op.isJalr = true ∨ x.inst.op = .ecall)

/-- `M` or `W` holds an ECALL. -/
def CallIn (m : Option MSlot) : Prop := ∃ x, m = some x ∧ x.inst.op = .ecall

/-- A clause about the entry of a bubble. -/
theorem forall_none {α : Type} {P : α → Prop} : ∀ x, (none : Option α) = some x → P x := nofun

/-- A clause about the entry of a register that holds `y`. -/
theorem forall_some {α : Type} {P : α → Prop} {y : α} (h : P y) : ∀ x, some y = some x → P x := by
  rintro _ ⟨⟩
  exact h

/-- With a bubble in `E` only the clauses on `D` are left. -/
theorem FrontOrdered.of_bubble {shamt6 blocked : Bool} {d : Option DSlot}
    (hjump : ∀ x, d = some x → preDecode x.word = .jalr → blocked = true)
    (hguess : ∀ x, d = some x → x.predTaken = true → ∃ off, preDecode x.word = .branch off) :
    FrontOrdered shamt6 blocked d none :=
  ⟨forall_none, forall_none, forall_none, hjump, hguess, forall_none⟩

theorem FrontOrdered.empty (shamt6 blocked : Bool) : FrontOrdered shamt6 blocked none none := .of_bubble forall_none forall_none

/-- The front does not depend on operands. -/
theorem exists_of_bare {o o' : Option ESlot} (h : o.map ESlot.bare = o'.map ESlot.bare) {x : ESlot} (hx : o = some x) :
    ∃ y, o' = some y ∧ y.pc = x.pc ∧ y.inst = x.inst ∧ y.predTaken = x.predTaken := by
  subst hx
  obtain ⟨y, hy, hbare⟩ := Option.map_eq_some_iff.mp h.symm
  simp only [ESlot.bare, ESlot.mk.injEq] at hbare
  obtain ⟨hpc, hinst, -, -, hguess, -⟩ := hbare
  exact ⟨y, hy, hpc, hinst, hguess⟩

theorem BlockerIn.of_bare {o o' : Option ESlot} (h : o.map ESlot.bare = o'.map ESlot.bare) : BlockerIn o → BlockerIn o' := by
  rintro ⟨x, hx, hop⟩
  obtain ⟨y, hy, -, hinst, -⟩ := exists_of_bare h hx
  exact ⟨y, hy, by rwa [hinst]⟩

theorem eq_none_of_bare {o o' : Option ESlot} (h : o.map ESlot.bare = o'.map ESlot.bare) (ho : o = none) : o' = none := by
  subst ho
  exact Option.map_eq_none_iff.mp h.symm

theorem FrontOrdered.of_bare {shamt6 blocked : Bool} {d : Option DSlot} {o o' : Option ESlot}
    (h : o'.map ESlot.bare = o.map ESlot.bare) (hf : FrontOrdered shamt6 blocked d o) : FrontOrdered shamt6 blocked d o' where
  inst := by
    intro x hx
    obtain ⟨y, hy, hpc, hinst, -⟩ := exists_of_bare h hx
    rw [← hinst, ← hpc]
    exact hf.inst y hy
  call := by
    intro x hx
    obtain ⟨y, hy, -, hinst, -⟩ := exists_of_bare h hx
    exact hinst ▸ hf.call y hy
  jump := by
    intro x hx
    obtain ⟨y, hy, -, hinst, -⟩ := exists_of_bare h hx
    exact hinst ▸ hf.jump y hy
  jumpD := hf.jumpD
  guessD := hf.guessD
  guess := by
    intro x hx
    obtain ⟨y, hy, -, hinst, hguess⟩ := exists_of_bare h hx
    rw [← hinst, ← hguess]
    exact hf.guess y hy

/-! ### Fetch and Decode -/

/-- What Fetch has left for the update in a cycle from `s` (R411, R412). -/
structure AfterFetch (s u : State) : Prop where
  goesF : u.fNxt.stall = false
  goesD : u.dNxt.stall = false
  blocked : s.fCur.bubble = true → u.fNxt.bubble = true ∧ u.dNxt.slot = none
  cause : s.fCur.bubble = false → u.fNxt.bubble = true → JumpIn u.dNxt.slot
  jumpD : ∀ d, u.dNxt.slot = some d → preDecode d.word = .jalr → u.fNxt.bubble = true
  guessD : ∀ d, u.dNxt.slot = some d → d.predTaken = true → ∃ off, preDecode d.word = .branch off

theorem nextFetch_block {s : State} {pc : Word} {k : FetchKind} : (nextFetch s pc k).block = true ↔ k = .jalr := by
  cases k <;> simp [nextFetch]

theorem nextFetch_predTaken {s : State} {pc : Word} {k : FetchKind} (h : (nextFetch s pc k).predTaken = true) :
    ∃ off, k = .branch off := by
  cases k <;> simp [nextFetch] at h ⊢

theorem FetchStep.after {s u v : State} (h : FetchStep u v) (hf : u.fCur = s.fCur) (hv : v.status.isFatal = false) : AfterFetch s v := by
  cases h with
  | raised => cases hv
  | blocked hb =>
    rw [hf] at hb
    exact ⟨rfl, rfl, fun _ => ⟨rfl, rfl⟩, fun hb' => by simp [hb] at hb', forall_none, forall_none⟩
  | fetched w st cost hb =>
    rw [hf] at hb
    exact ⟨rfl, rfl, fun hb' => by simp [hb] at hb', fun _ hblock => ⟨_, rfl, nextFetch_block.mp hblock⟩,
      forall_some nextFetch_block.mpr, forall_some nextFetch_predTaken⟩

/-- What Decode has left for the update in a cycle from `s` (R420 to R422). -/
structure AfterDecode (s u : State) : Prop where
  goesF : u.fNxt.stall = false
  goesD : u.dNxt.stall = false
  front : FrontOrdered u.cfg.shamt6 u.fNxt.bubble u.dNxt.slot u.eNxt.slot
  drained : s.fCur.bubble = true → s.dCur.slot = none → u.fNxt.bubble = true ∧ u.dNxt.slot = none ∧ u.eNxt.slot = none
  cause : u.fNxt.bubble = true → JumpIn u.dNxt.slot ∨ BlockerIn u.eNxt.slot ∨ (s.fCur.bubble = true ∧ ¬ JumpIn s.dCur.slot)

theorem AfterFetch.cause_or {s u : State} (h : AfterFetch s u) (hb : u.fNxt.bubble = true) :
    JumpIn u.dNxt.slot ∨ s.fCur.bubble = true := by
  cases hs : s.fCur.bubble with
  | true => exact .inr rfl
  | false => exact .inl (h.cause hs hb)

theorem DecodeStep.after {s u v : State} (hs : s.Ordered) (hu : Untouched s u) (hf : AfterFetch s u) (h : DecodeStep u v)
    (hv : v.status.isFatal = false) : AfterDecode s v := by
  have hd : u.dCur.slot = s.dCur.slot := congrArg Snap.slot hu.dCur
  -- the entry of `E` is the decoding of the word in `D`, with its prediction
  have hinst : ∀ {d i a b}, decode u.cfg.shamt6 d.word = .ok i → ∀ x, some (decodedSlot i d a b) = some x →
      x.inst.addr = x.pc ∧ decode u.cfg.shamt6 x.inst.word = .ok x.inst.op := fun hi => forall_some ⟨rfl, hi⟩
  have hguess : ∀ {d i a b}, u.dCur.slot = some d → decode u.cfg.shamt6 d.word = .ok i → ∀ x, some (decodedSlot i d a b) = some x →
      x.predTaken = true → x.inst.op.isBranch = true := fun hslot hi => forall_some fun htaken => by
    obtain ⟨off, hoff⟩ := hs.guessD _ (hd ▸ hslot) htaken
    exact isBranch_of_fetchKind ((preDecode_of_decode hi).symm.trans hoff)
  cases h with
  | raised => cases hv
  | idle hslot =>
    refine ⟨hf.goesF, hf.goesD, .of_bubble hf.jumpD hf.guessD, fun hb _ => ⟨(hf.blocked hb).1, (hf.blocked hb).2, rfl⟩, fun hb => ?_⟩
    · refine (hf.cause_or hb).imp_right fun hb => .inr ⟨hb, ?_⟩
      rintro ⟨d, hd', -⟩
      rw [← hd, hslot] at hd'
      cases hd'
  | plain d i a b g hslot hi hjump hcall =>
    refine ⟨hf.goesF, hf.goesD, ?_, fun _ hnone => ?_, fun hb => ?_⟩
    · exact ⟨hinst hi, forall_some fun hop => absurd hop hcall, forall_some fun hop => absurd (hjump.symm.trans hop) (by decide),
        hf.jumpD, hf.guessD, hguess hslot hi⟩
    · rw [← hd, hslot] at hnone
      cases hnone
    · refine (hf.cause_or hb).imp_right fun hb => .inr ⟨hb, ?_⟩
      rintro ⟨d', hd', hj⟩
      rw [← hd, hslot] at hd'
      cases hd'
      exact absurd (hjump.symm.trans ((preDecode_jalr_iff hi).mp hj)) (by decide)
  | block d i a b g hslot hi hjump =>
    have hb := hs.jumpD d (hd ▸ hslot) ((preDecode_jalr_iff hi).mpr hjump)
    refine ⟨hf.goesF, hf.goesD, ?_, fun _ hnone => ?_, fun _ => .inr (.inl ⟨_, rfl, .inl hjump⟩)⟩
    · exact ⟨hinst hi, fun _ _ _ => ⟨rfl, (hf.blocked hb).2⟩, fun _ _ _ => ⟨rfl, (hf.blocked hb).2⟩, fun _ _ _ => rfl, hf.guessD,
        hguess hslot hi⟩
    · rw [← hd, hslot] at hnone
      cases hnone
  | drain d a b g hslot hi =>
    refine ⟨rfl, rfl, ?_, fun _ hnone => ?_, fun _ => .inr (.inl ⟨_, rfl, .inr rfl⟩)⟩
    · exact ⟨hinst hi, fun _ _ _ => ⟨rfl, rfl⟩, fun _ _ _ => ⟨rfl, rfl⟩, forall_none, forall_none, hguess hslot hi⟩
    · rw [← hd, hslot] at hnone
      cases hnone

/-! ### Execute -/

/-- What Execute has left for the update in a cycle from `s` (R423, R424, R432). -/
structure AfterExecute (s u : State) : Prop where
  front : (updatePipeline u).Front
  moved : ∀ x, u.mNxt.slot = some x → ∃ e, s.eCur.slot = some e ∧ x.pc = e.pc ∧ x.inst = e.inst
  drained : s.fCur.bubble = true → s.dCur.slot = none → (∀ e, s.eCur.slot = some e → e.inst.op = .ecall) →
    (updatePipeline u).Drained
  cause : (updatePipeline u).fCur.bubble = true → JumpIn (updatePipeline u).dCur.slot ∨ BlockerIn (updatePipeline u).eCur.slot ∨
    CallIn u.mNxt.slot ∨ CallIn s.mCur.slot ∨ CallIn s.wCur.slot

/-- The update takes over the fetch and decode registers unless they are held. -/
theorem update_front_of_goes {u : State} (hF : u.fNxt.stall = false) (hD : u.dNxt.stall = false) :
    (updatePipeline u).fCur.bubble = u.fNxt.bubble ∧ (updatePipeline u).dCur.slot = u.dNxt.slot := by
  simp [hF, hD]

/-- The update leaves the fetch and decode registers that are held. -/
theorem update_front_of_held {u : State} (hF : u.fNxt.stall = true) (hD : u.dNxt.stall = true) :
    (updatePipeline u).fCur = u.fCur ∧ (updatePipeline u).dCur = u.dCur := by
  simp [hF, hD]

/-- A machine whose fetch is blocked has an instruction that blocks it. -/
theorem State.Ordered.cause {s : State} (h : s.Ordered) (hrun : s.status = .running) (hb : s.fCur.bubble = true) :
    JumpIn s.dCur.slot ∨ BlockerIn s.eCur.slot ∨ CallIn s.mCur.slot ∨ CallIn s.wCur.slot := h.blocked hrun hb

theorem not_ecall_of_isLoad {i : Instr} (h : i.isLoad = true) : i ≠ .ecall ∧ i.isJalr = false := by
  cases i <;> simp_all [Instr.isLoad, Instr.isJalr]

theorem ExecuteStep.after {s u v : State} (hs : s.Ordered) (hrun : s.status = .running) (hu : Untouched s u) (hd : AfterDecode s u)
    (h : ExecuteStep u v) (hv : v.status.isFatal = false) : AfterExecute s v := by
  have heq : u.eCur.slot = s.eCur.slot := congrArg Snap.slot hu.eCur
  cases h with
  | raised => cases hv
  | idle he =>
    obtain ⟨hfb, hds⟩ := update_front_of_goes (u := { u with mNxt := Snap.bubble }) hd.goesF hd.goesD
    refine ⟨?_, forall_none, fun hb hD _ => ?_, fun hb => ?_⟩
    · rw [State.Front, hfb, hds]
      exact hd.front
    · rw [State.Drained, hfb, hds]
      exact hd.drained hb hD
    · rw [hfb] at hb
      rw [hds]
      rcases hd.cause hb with hj | hblock | ⟨hb, hnoJump⟩
      · exact .inl hj
      · exact .inr (.inl hblock)
      · rcases hs.cause hrun hb with hj | ⟨e, he', -⟩ | hcall | hcall
        · exact absurd hj hnoJump
        · rw [← heq, he] at he'
          cases he'
        · exact .inr (.inr (.inr (.inl hcall)))
        · exact .inr (.inr (.inr (.inr hcall)))
  | passed e x o bht ctr g he hpc hinst hbht hjump ho =>
    rw [heq] at he
    obtain ⟨hfb, hds⟩ := update_front_of_goes
      (u := { u with mNxt := Snap.of x, eNxt := { u.eNxt with slot := o }, bht := bht, ctr := ctr, sig := g }) hd.goesF hd.goesD
    refine ⟨?_, forall_some ⟨e, he, hpc, hinst⟩, fun hb hD _ => ?_, fun hb => ?_⟩
    · rw [State.Front, hfb, hds]
      exact hd.front.of_bare ho
    · obtain ⟨hb', hD', hE'⟩ := hd.drained hb hD
      rw [State.Drained, hfb, hds]
      exact ⟨hb', hD', eq_none_of_bare ho.symm hE'⟩
    · rw [hfb] at hb
      rw [hds]
      rcases hd.cause hb with hj | hblock | ⟨hb, hnoJump⟩
      · exact .inl hj
      · exact .inr (.inl (hblock.of_bare ho.symm))
      · rcases hs.cause hrun hb with hj | ⟨e', he', hop⟩ | hcall | hcall
        · exact absurd hj hnoJump
        · rw [he] at he'
          cases he'
          refine .inr (.inr (.inl ⟨x, rfl, ?_⟩))
          rw [hinst]
          exact hop.resolve_left (by simp [hjump])
        · exact .inr (.inr (.inr (.inl hcall)))
        · exact .inr (.inr (.inr (.inr hcall)))
  | redirected e x target bht ctr g he hpc hinst hbht hcall =>
    rw [heq] at he
    exact ⟨.empty _ _, forall_some ⟨e, he, hpc, hinst⟩, fun _ _ honly => absurd (honly e he) hcall, fun hb => by cases hb⟩
  | held e x bht ctr g he hpc hinst hbht hload =>
    rw [heq] at he
    obtain ⟨hcall, hjump⟩ := not_ecall_of_isLoad hload
    obtain ⟨hf, hds⟩ := update_front_of_held
      (u := { u with mNxt := Snap.of x, fNxt := { u.fNxt with stall := true }, dNxt := { u.dNxt with stall := true },
                     eNxt := Snap.bubble, bht := bht, ctr := ctr, sig := g }) rfl rfl
    refine ⟨?_, forall_some ⟨e, he, hpc, hinst⟩, fun _ _ honly => absurd (honly e he) hcall, fun hb => ?_⟩
    · rw [State.Front, hf, hds, hu.fCur, hu.dCur]
      exact .of_bubble hs.jumpD hs.guessD
    · rw [hf, hu.fCur] at hb
      rw [hds, hu.dCur]
      rcases hs.cause hrun hb with hj | ⟨e', he', hop⟩ | hcallM | hcallW
      · exact .inl hj
      · rw [he] at he'
        cases he'
        simp [hcall, hjump] at hop
      · exact .inr (.inr (.inr (.inl hcallM)))
      · exact .inr (.inr (.inr (.inr hcallW)))

/-! ### MemoryAccess and WriteBack -/

/-- The update would make the same of `D` and of all of `E` but its operands. -/
structure SameDecodeExecute (u v : State) : Prop where
  cfg : v.cfg = u.cfg
  d : (updatePipeline v).dCur.slot = (updatePipeline u).dCur.slot
  e : (updatePipeline v).eCur.slot.map ESlot.bare = (updatePipeline u).eCur.slot.map ESlot.bare

/-- What MemoryAccess has left for the update: it moves `M` on and leaves the front. -/
structure AfterMemory (u v : State) : Prop where
  same : SameDecodeExecute u v
  blocked : (updatePipeline v).fCur = (updatePipeline u).fCur
  mNxt : v.mNxt = u.mNxt
  moved : ∀ x, v.wNxt.slot = some x → ∃ y, u.mCur.slot = some y ∧ x.pc = y.pc ∧ x.inst = y.inst
  call : CallIn u.mCur.slot → CallIn v.wNxt.slot

theorem MemoryStep.after {u v : State} (h : MemoryStep u v) (hv : v.status.isFatal = false) : AfterMemory u v := by
  cases h with
  | raised => cases hv
  | idle hm => exact ⟨⟨rfl, rfl, rfl⟩, rfl, rfl, forall_none, by rintro ⟨x, hx, -⟩; rw [hm] at hx; cases hx⟩
  | done x res o st g hm hst ho =>
    refine ⟨⟨rfl, rfl, ho⟩, rfl, rfl, forall_some ⟨x, hm, rfl, rfl⟩, ?_⟩
    rintro ⟨y, hy, hop⟩
    rw [hm] at hy
    cases hy
    exact ⟨_, rfl, hop⟩

/-- What WriteBack has left for the update: it leaves all but the fetch block, which an ECALL there clears if the run goes on. -/
structure AfterWriteBack (u v : State) : Prop where
  same : SameDecodeExecute u v
  mNxt : v.mNxt = u.mNxt
  wNxt : v.wNxt = u.wNxt
  blocked : ¬ CallIn u.wCur.slot → (updatePipeline v).fCur = (updatePipeline u).fCur
  released : CallIn u.wCur.slot → v.status = .running → (updatePipeline v).fCur.bubble = false

theorem not_callIn_none : ¬ CallIn none := by
  rintro ⟨_, ⟨⟩, -⟩

theorem not_callIn_some {x : MSlot} (h : x.inst.op ≠ .ecall) : ¬ CallIn (some x) := by
  rintro ⟨_, ⟨⟩, hop⟩
  exact h hop

/-- A released fetch register is taken over by the update. -/
theorem update_released {u : State} {x : MSlot} {status : Status} {f : FReg} (hf : u.fNxt = released x status f)
    (hrun : status = .running) : (updatePipeline u).fCur.bubble = false := by
  simp [hf, released, hrun]

theorem WriteBackStep.after {u v : State} (h : WriteBackStep u v) (hv : v.status.isFatal = false) : AfterWriteBack u v := by
  cases h with
  | raised => cases hv
  | idle hw =>
    exact ⟨⟨rfl, rfl, rfl⟩, rfl, rfl, fun _ => rfl, fun hcall => absurd (hw ▸ hcall) not_callIn_none⟩
  | commit x regs o ctr g hw hop hregs ho =>
    exact ⟨⟨rfl, rfl, ho⟩, rfl, rfl, fun _ => rfl, fun hcall => absurd (hw ▸ hcall) (not_callIn_some hop)⟩
  | output x event status o ctr g hw hop hstatus ho =>
    exact ⟨⟨rfl, rfl, ho⟩, rfl, rfl, fun hno => absurd ⟨x, hw, hop⟩ hno, fun _ hrun => update_released rfl hrun⟩
  | input x v regs rest o ctr g hw hop ha7 hregs ho =>
    exact ⟨⟨rfl, rfl, ho⟩, rfl, rfl, fun hno => absurd ⟨x, hw, hop⟩ hno, fun _ hrun => update_released rfl hrun⟩

/-! ### The whole cycle -/

/-- The order is a matter of the `cur` registers, but for the cause of a blocked fetch, which a machine that has stopped needs not
have. -/
theorem KeepsCur.ordered {s u : State} (h : KeepsCur s u) (hs : s.Ordered) (hu : u.status ≠ .running) : u.Ordered where
  instE := by rw [h.cfg, h.eCur]; exact hs.instE
  instM := by rw [h.cfg, h.mCur]; exact hs.instM
  instW := by rw [h.cfg, h.wCur]; exact hs.instW
  callE := by rw [h.eCur, h.fCur, h.dCur]; exact hs.callE
  callM := by rw [h.mCur, h.fCur, h.dCur, h.eCur]; exact hs.callM
  callW := by rw [h.wCur, h.fCur, h.dCur, h.eCur, h.mCur]; exact hs.callW
  jumpD := by rw [h.dCur, h.fCur]; exact hs.jumpD
  jumpE := by rw [h.eCur, h.fCur, h.dCur]; exact hs.jumpE
  guessD := by rw [h.dCur]; exact hs.guessD
  guessE := by rw [h.eCur]; exact hs.guessE
  blocked := fun hrun => absurd hrun hu

/-- A step that does not raise goes through all five stages. -/
theorem step_stages {s t : State} (h : step s = .next t) (ht : t.status.isFatal = false) :
    ∃ s1 s2 s3 s4 s5, (FetchStep { s with sig := Signals.idle } s1 ∧ s1.status.isFatal = false) ∧
      (DecodeStep s1 s2 ∧ s2.status.isFatal = false) ∧ (ExecuteStep s2 s3 ∧ s3.status.isFatal = false) ∧
      (MemoryStep s3 s4 ∧ s4.status.isFatal = false) ∧ (WriteBackStep s4 s5 ∧ s5.status.isFatal = false) ∧ t = updatePipeline s5 := by
  have hgo : ∀ {u : State} {p : Prop}, (u.status.isFatal = true ∧ t = { u with sig := Signals.idle }) ∨ p → p := by
    rintro u p (⟨hf, rfl⟩ | hp)
    · exact absurd (ht.symm.trans hf) (by decide)
    · exact hp
  obtain ⟨s1, h1, hend⟩ := cycle_next (step_next h).2
  obtain ⟨f1, s2, h2, hend⟩ := hgo hend
  obtain ⟨f2, s3, h3, hend⟩ := hgo hend
  obtain ⟨f3, s4, h4, hend⟩ := hgo hend
  obtain ⟨f4, s5, h5, hend⟩ := hgo hend
  obtain ⟨f5, ht⟩ := hgo hend
  exact ⟨s1, s2, s3, s4, s5, ⟨h1 ▸ fetchStage_step _, f1⟩, ⟨decodeStage_step h2, f2⟩, ⟨executeStage_step f2 h3, f3⟩,
    ⟨memoryStage_step f3 h4, f4⟩, ⟨writeBackStage_step f4 h5, f5⟩, ht⟩

theorem ordered_of_front {t : State} (hfront : t.Front)
    (instM : ∀ x, t.mCur.slot = some x → x.inst.addr = x.pc ∧ decode t.cfg.shamt6 x.inst.word = .ok x.inst.op)
    (instW : ∀ x, t.wCur.slot = some x → x.inst.addr = x.pc ∧ decode t.cfg.shamt6 x.inst.word = .ok x.inst.op)
    (callM : ∀ x, t.mCur.slot = some x → x.inst.op = .ecall → t.Drained)
    (callW : ∀ x, t.wCur.slot = some x → x.inst.op = .ecall → t.Drained ∧ t.mCur.slot = none)
    (cause : t.status = .running → t.fCur.bubble = true →
      JumpIn t.dCur.slot ∨ BlockerIn t.eCur.slot ∨ CallIn t.mCur.slot ∨ CallIn t.wCur.slot) : t.Ordered where
  instE := hfront.inst
  instM := instM
  instW := instW
  callE := hfront.call
  callM := callM
  callW := fun x hx hop => by
    obtain ⟨⟨hb, hd, he⟩, hm⟩ := callW x hx hop
    exact ⟨hb, hd, he, hm⟩
  jumpD := hfront.jumpD
  jumpE := hfront.jump
  guessD := hfront.guessD
  guessE := hfront.guess
  blocked := cause

/-- The front depends on the fetch block, `D` and `E` without its operands. -/
theorem State.Front.transfer {a b : State} (h : a.Front) (hcfg : b.cfg = a.cfg) (hf : b.fCur = a.fCur) (hd : b.dCur.slot = a.dCur.slot)
    (he : b.eCur.slot.map ESlot.bare = a.eCur.slot.map ESlot.bare) : b.Front := by
  rw [State.Front, hcfg, hf, hd]
  exact FrontOrdered.of_bare he h

section Assembly

variable {s u v w : State}

/-- An ECALL that retires leaves an empty pipeline, with fetch released if the run goes on (R428). -/
theorem ordered_after_call (hs : s.Ordered) (hexec : AfterExecute s u) (hmem : AfterMemory u v) (hwb : AfterWriteBack v w)
    (hM : u.mCur = s.mCur) (hW : v.wCur = s.wCur) (hcall : CallIn s.wCur.slot) : (updatePipeline w).Ordered := by
  have hcallv : CallIn v.wCur.slot := hW ▸ hcall
  obtain ⟨x, hx, hop⟩ := hcall
  obtain ⟨hb, hD, hE, hMnone⟩ := hs.callW x hx hop
  obtain ⟨-, hd, he⟩ := hexec.drained hb hD fun e he => by rw [hE] at he; cases he
  have hd : (updatePipeline w).dCur.slot = none := hwb.same.d.trans (hmem.same.d.trans hd)
  have he : (updatePipeline w).eCur.slot = none := eq_none_of_bare (hmem.same.e.symm.trans hwb.same.e.symm) he
  have hm : (updatePipeline w).mCur.slot = none := Option.eq_none_iff_forall_ne_some.mpr fun y hy => by
    obtain ⟨e, he, -⟩ := hexec.moved y (by rw [← hmem.mNxt, ← hwb.mNxt]; exact hy)
    rw [hE] at he
    cases he
  have hw : (updatePipeline w).wCur.slot = none := Option.eq_none_iff_forall_ne_some.mpr fun y hy => by
    obtain ⟨z, hz, -⟩ := hmem.moved y (by rw [← hwb.wNxt]; exact hy)
    rw [hM, hMnone] at hz
    cases hz
  refine ordered_of_front ?_ ?_ ?_ ?_ ?_ fun hrun hblock => ?_
  · rw [State.Front, hd, he]
    exact .empty _ _
  · rw [hm]
    exact forall_none
  · rw [hw]
    exact forall_none
  · rw [hm]
    exact forall_none
  · rw [hw]
    exact forall_none
  · rw [hwb.released hcallv hrun] at hblock
    cases hblock

/-- Without an ECALL at WriteBack every instruction moves on by one register, or the front waits. -/
theorem ordered_without_call (hs : s.Ordered) (hexec : AfterExecute s u) (hmem : AfterMemory u v) (hwb : AfterWriteBack v w)
    (hcfg : u.cfg = s.cfg) (hM : u.mCur = s.mCur) (hW : v.wCur = s.wCur) (hcall : ¬ CallIn s.wCur.slot) :
    (updatePipeline w).Ordered := by
  have hcfgw : (updatePipeline w).cfg.shamt6 = s.cfg.shamt6 :=
    congrArg Config.shamt6 (hwb.same.cfg.trans (hmem.same.cfg.trans hcfg))
  have hf : (updatePipeline w).fCur = (updatePipeline u).fCur := (hwb.blocked (by rwa [hW])).trans hmem.blocked
  have hd : (updatePipeline w).dCur.slot = (updatePipeline u).dCur.slot := hwb.same.d.trans hmem.same.d
  have he : (updatePipeline w).eCur.slot.map ESlot.bare = (updatePipeline u).eCur.slot.map ESlot.bare := hwb.same.e.trans hmem.same.e
  have hm : (updatePipeline w).mCur.slot = u.mNxt.slot := congrArg Snap.slot (hwb.mNxt.trans hmem.mNxt)
  have hw : (updatePipeline w).wCur.slot = v.wNxt.slot := congrArg Snap.slot hwb.wNxt
  have hdrained : (updatePipeline u).Drained → (updatePipeline w).Drained := by
    rintro ⟨hb', hd', he'⟩
    exact ⟨hf ▸ hb', hd.trans hd', eq_none_of_bare he.symm he'⟩
  refine ordered_of_front ?_ ?_ ?_ ?_ ?_ fun _ hblock => ?_
  · exact hexec.front.transfer (hwb.same.cfg.trans hmem.same.cfg) hf hd he
  · intro x hx
    obtain ⟨e, hE, hpc, hinst⟩ := hexec.moved x (hm ▸ hx)
    rw [hcfgw, hpc, hinst]
    exact hs.instE e hE
  · intro x hx
    obtain ⟨y, hy, hpc, hinst⟩ := hmem.moved x (hw ▸ hx)
    rw [hcfgw, hpc, hinst]
    exact hs.instM y (hM ▸ hy)
  · intro x hx hop
    obtain ⟨e, hE, -, hinst⟩ := hexec.moved x (hm ▸ hx)
    have hop : e.inst.op = .ecall := hinst ▸ hop
    obtain ⟨hb, hD⟩ := hs.callE e hE hop
    exact hdrained (hexec.drained hb hD fun e' he' => by rw [hE] at he'; cases he'; exact hop)
  · intro x hx hop
    obtain ⟨y, hy, -, hinst⟩ := hmem.moved x (hw ▸ hx)
    obtain ⟨hb, hD, hE⟩ := hs.callM y (hM ▸ hy) (hinst ▸ hop)
    refine ⟨hdrained (hexec.drained hb hD fun e he => by rw [hE] at he; cases he), ?_⟩
    refine hm.trans (Option.eq_none_iff_forall_ne_some.mpr fun z hz => ?_)
    obtain ⟨e, he, -⟩ := hexec.moved z hz
    rw [hE] at he
    cases he
  · rw [hf] at hblock
    rw [hd, hm, hw]
    rcases hexec.cause hblock with hj | hE | hcallM | hcallM | hcallW
    · exact .inl hj
    · exact .inr (.inl (hE.of_bare he.symm))
    · exact .inr (.inr (.inl hcallM))
    · exact .inr (.inr (.inr (hmem.call (hM ▸ hcallM))))
    · exact absurd hcallW hcall

end Assembly

/-- Settles O15: a step that raises leaves the registers, and one that does not moves every instruction on, an ECALL at WriteBack
last of all. -/
theorem stepKeepsOrdered : Obligations.StepKeepsOrdered := by
  intro s t hs h
  have hrun := (step_next h).1.running
  cases ht : t.status.isFatal with
  | true =>
    obtain ⟨u, hu, hend⟩ := step_ends (Q := KeepsCur s) h (Untouched.start s) Untouched.fetch Untouched.decode Untouched.execute
      Untouched.memory Untouched.writeBack Untouched.toKeepsCur
    rcases hend with ⟨-, rfl⟩ | ⟨hf, rfl⟩
    · exact KeepsCur.ordered { hu with } hs fun he => by
        rw [show u.status = .running from he] at ht
        cases ht
    · exact absurd (hf.symm.trans ht) (by decide)
  | false =>
    obtain ⟨s1, s2, s3, s4, s5, ⟨h1, f1⟩, ⟨h2, f2⟩, ⟨h3, f3⟩, ⟨h4, f4⟩, ⟨h5, f5⟩, rfl⟩ := step_stages h ht
    have u1 := (Untouched.start s).fetch h1
    have u2 := u1.decode h2
    have u3 := u2.execute h3
    have u4 := u3.memory h4
    have hdecode := h2.after hs u1 (h1.after rfl f1) f2
    have hexec := h3.after hs hrun u2 hdecode f3
    by_cases hcall : CallIn s.wCur.slot
    · exact ordered_after_call hs hexec (h4.after f4) (h5.after f5) u3.mCur u4.wCur hcall
    · exact ordered_without_call hs hexec (h4.after f4) (h5.after f5) u3.cfg u3.mCur u4.wCur hcall

end Sys2Proof.Machine

namespace Sys2Proof.Machine

/-! SUPPORT and PROOF. The victim of a miss (20_memory.md R76, R80, R81). -/

theorem oldestFrom_cons (p : CacheLine → Bool) (l : CacheLine) (ls : List CacheLine) (i : Nat) (best : Option (Nat × Nat)) :
    oldestFrom p (l :: ls) i best =
      oldestFrom p ls (i + 1) (if p l = true ∧ ∀ b, best = some b → l.recency < b.2 then some (i, l.recency) else best) := by
  cases best <;> simp [oldestFrom]

/-- The running minimum: what `oldestFrom` answers is its start or one of the ways that satisfy `p`, and no such way and no start is
less recent. -/
theorem oldestFrom_least (p : CacheLine → Bool) (ls : List CacheLine) (i : Nat) (best : Option (Nat × Nat)) :
    (oldestFrom p ls i best = best ∨ ∃ k l, ls[k]? = some l ∧ p l = true ∧ oldestFrom p ls i best = some (i + k, l.recency)) ∧
    (∀ l ∈ ls, p l = true → ∃ b, oldestFrom p ls i best = some b ∧ b.2 ≤ l.recency) ∧
    (∀ b, best = some b → ∃ b', oldestFrom p ls i best = some b' ∧ b'.2 ≤ b.2) := by
  induction ls generalizing i best with
  | nil => exact ⟨.inl rfl, by simp, fun b hb => ⟨b, hb, Nat.le_refl _⟩⟩
  | cons l ls ih =>
    rw [oldestFrom_cons]
    split
    · next hbetter =>
      obtain ⟨hp, hlt⟩ := hbetter
      obtain ⟨hfrom, hleast, hstart⟩ := ih (i + 1) (some (i, l.recency))
      obtain ⟨b', hb', hle⟩ := hstart _ rfl
      refine ⟨.inr ?_, fun x hx hpx => ?_, fun b hb => ⟨b', hb', Nat.le_trans hle (Nat.le_of_lt (hlt b hb))⟩⟩
      · rcases hfrom with he | ⟨k, x, hx, hpx, he⟩
        · exact ⟨0, l, rfl, hp, he⟩
        · exact ⟨k + 1, x, hx, hpx, by rw [he]; congr 2; omega⟩
      · rcases List.mem_cons.mp hx with rfl | hx
        · exact ⟨b', hb', hle⟩
        · exact hleast x hx hpx
    · next hworse =>
      obtain ⟨hfrom, hleast, hstart⟩ := ih (i + 1) best
      refine ⟨hfrom.imp_right ?_, fun x hx hpx => ?_, hstart⟩
      · rintro ⟨k, x, hx, hpx, he⟩
        exact ⟨k + 1, x, hx, hpx, by rw [he]; congr 2; omega⟩
      · rcases List.mem_cons.mp hx with rfl | hx
        · obtain ⟨b, hb, hle⟩ : ∃ b, best = some b ∧ b.2 ≤ x.recency := by simpa [hpx] using hworse
          obtain ⟨b', hb', hle'⟩ := hstart b hb
          exact ⟨b', hb', Nat.le_trans hle' hle⟩
        · exact hleast x hx hpx

/-- `oldest` is the least recent of the ways that satisfy `p`, if there is one. -/
theorem oldest_least {p : CacheLine → Bool} {ways : List CacheLine} (h : ∃ l ∈ ways, p l = true) :
    ∃ l, ways[oldest p ways]? = some l ∧ p l = true ∧ ∀ x ∈ ways, p x = true → l.recency ≤ x.recency := by
  obtain ⟨l, hl, hp⟩ := h
  obtain ⟨hfrom, hleast, -⟩ := oldestFrom_least p ways 0 none
  rcases hfrom with he | ⟨k, x, hx, hpx, he⟩
  · obtain ⟨b, hb, -⟩ := hleast l hl hp
    rw [he] at hb
    cases hb
  · refine ⟨x, by simpa [oldest, he] using hx, hpx, fun y hy hpy => ?_⟩
    obtain ⟨b, hb, hle⟩ := hleast y hy hpy
    rw [he] at hb
    cases hb
    exact hle

/-- Settles O57: the lowest invalid way by `List.findIdx?`, the least recent way by `oldest_least`. -/
theorem victimRule : Obligations.VictimRule := by
  intro m ways hne v least
  refine ⟨fun ⟨l, hl, hinvalid⟩ => ?_, fun hvalid => ?_⟩
  · obtain ⟨w, hw⟩ : ∃ w, ways.findIdx? (fun l => !l.valid) = some w := by
      rw [← Option.isSome_iff_exists, List.findIdx?_isSome, List.any_eq_true]
      exact ⟨l, hl, by simp [hinvalid]⟩
    have hv : v = w := by simp only [v, victim, hw]
    obtain ⟨hlt, hp, hbefore⟩ := List.findIdx?_eq_some_iff_getElem.mp hw
    refine ⟨⟨ways[w], by simp [hv, hlt], by simpa using hp⟩, fun k l hk hget => ?_⟩
    obtain ⟨hlt, rfl⟩ := List.getElem?_eq_some_iff.mp hget
    simpa using hbefore k (hv ▸ hk)
  · have hnone : ways.findIdx? (fun l => !l.valid) = none := by simpa [List.findIdx?_eq_none_iff] using hvalid
    have hall : oldest (fun _ => true) ways = v → least fun _ => True := fun he => by
      obtain ⟨l, hl⟩ := List.exists_mem_of_ne_nil ways hne
      obtain ⟨x, hx, -, hleast⟩ := oldest_least (p := fun _ => true) ⟨l, hl, rfl⟩
      exact ⟨x, he ▸ hx, trivial, fun y hy _ => hleast y hy rfl⟩
    refine ⟨?_, ?_, ?_⟩
    · rintro rfl
      exact hall (by simp only [v, victim, hnone])
    · rintro rfl ⟨l, hl, hp⟩
      have hsome : ways.any (fun l => !l.promoted) = true := List.any_eq_true.mpr ⟨l, hl, by simp [hp]⟩
      obtain ⟨x, hx, hpx, hleast⟩ := oldest_least (p := fun l => !l.promoted) ⟨l, hl, by simp [hp]⟩
      refine ⟨x, ?_, by simpa using hpx, fun y hy hpy => hleast y hy (by simp [hpy])⟩
      simpa only [v, victim, hnone, hsome, if_true] using hx
    · rintro rfl hpromoted
      have hno : ways.any (fun l => !l.promoted) = false := by simpa using hpromoted
      exact hall (by simp only [v, victim, hnone, hno, Bool.false_eq_true, if_false])

/-- The victim is a way of the set. -/
theorem victim_lt (m : Method) {ways : List CacheLine} (h : ways ≠ []) : victim m ways < ways.length := by
  obtain ⟨hinvalid, hvalid⟩ := victimRule m ways h
  have hget : ∃ l, ways[victim m ways]? = some l := by
    by_cases hall : ∀ l ∈ ways, l.valid = true
    · obtain ⟨hlru, hsome, hnone⟩ := hvalid hall
      cases m with
      | lru => obtain ⟨l, hl, -⟩ := hlru rfl; exact ⟨l, hl⟩
      | twoQueue =>
        by_cases hp : ∀ l ∈ ways, l.promoted = true
        · obtain ⟨l, hl, -⟩ := hnone rfl hp; exact ⟨l, hl⟩
        · obtain ⟨l, hl, -⟩ := hsome rfl (by simpa using hp); exact ⟨l, hl⟩
    · obtain ⟨⟨l, hl, -⟩, -⟩ := hinvalid (by simpa using hall)
      exact ⟨l, hl⟩
  obtain ⟨l, hl⟩ := hget
  exact (List.getElem?_eq_some_iff.mp hl).1

/-! SUPPORT and PROOF. A request that is served, inverted once per function of the chain (20_memory.md R71 to R75): which requests it made
of the layer below, and what it made of the level. -/

/-- The line `l` once a request has been served from it: a write replaces its bytes, and makes it dirty under write-back (R73, R82). -/
def servedLine (c : LevelCfg) (r : Req) (l : CacheLine) : CacheLine :=
  if r.isRead then l else { l with data := splice l.data (c.off r.addr) r.buf, dirty := l.dirty || !c.wt }

/-- The buffer of a request served from the line `l` (R73). -/
def servedBuf (c : LevelCfg) (r : Req) (l : CacheLine) : List Byte :=
  if r.isRead then slice l.data (c.off r.addr) r.bytes else r.buf

/-- The line of a hit, most recent and under two-queue promoted (R73). -/
def CacheLine.touched (c : LevelCfg) (tick : Nat) (l : CacheLine) : CacheLine :=
  { l with recency := tick, promoted := l.promoted || c.method == .twoQueue }

/-- The line a miss installs for address `a`, with the data of its fill (R75, R78). -/
def filledLine (c : LevelCfg) (a tick : Nat) (fill : List Byte) : CacheLine :=
  { valid := true, dirty := false, tag := c.tag a, recency := tick, promoted := false, data := fill }

/-- The fill of a miss (R75). -/
def fillReq (c : LevelCfg) (r : Req) : Req :=
  { addr := c.base r.addr, bytes := c.lineSize, isRead := true, buf := [], isPrefetch := r.isPrefetch }

/-- The writeback of the line `old` of the set a request addresses (R77). -/
def evictReq (c : LevelCfg) (r : Req) (old : CacheLine) : Req :=
  { addr := c.lineAddr (c.set r.addr) old.tag, bytes := c.lineSize, isRead := false, buf := old.data, isPrefetch := r.isPrefetch }

/-- What serving a request from a present line does to the storage below: a write under write-through is forwarded to it (R73, R82). -/
inductive Forwards (c : LevelCfg) (lower : Req → Storage → Reply) (r : Req) (below : Storage) : Storage → Prop
  | forwarded (below' : Storage) (buf : List Byte) (hit : Bool) (t : Nat) (hw : r.isRead = false) (hwt : c.wt = true)
      (h : lower r below = .ok below' buf hit t) : Forwards c lower r below below'
  | kept (h : r.isRead = true ∨ c.wt = false) : Forwards c lower r below below

/-- What the writeback of a victim does to the storage below: one write of a dirty line, nothing for any other (R77). -/
inductive Evicts (c : LevelCfg) (lower : Req → Storage → Reply) (r : Req) (old : CacheLine) (below : Storage) : Storage → Nat → Prop
  | written (below' : Storage) (buf : List Byte) (hit : Bool) (t : Nat) (hv : old.valid = true) (hd : old.dirty = true)
      (h : lower (evictReq c r old) below = .ok below' buf hit t) : Evicts c lower r old below below' t
  | kept (h : old.valid = false ∨ old.dirty = false) : Evicts c lower r old below below 0

section Inversion

variable {c : LevelCfg} {lower : Req → Storage → Reply} {r : Req} {lv : Level} {below st : Storage} {buf : List Byte} {hit : Bool}
  {t : Nat}

theorem writeLine_ok {w : Nat} {line : CacheLine} {h : Bool} {time : Nat} (hw : r.isRead = false)
    (he : writeLine c lower r lv below w line h time = .ok st buf hit t) :
    ∃ below', Forwards c lower r below below' ∧ st = push (lv.setLine (c.set r.addr) w (servedLine c r line)) below' ∧
      buf = servedBuf c r line ∧ hit = h ∧ t = time := by
  have hreq : { r with isRead := false } = r := by rw [← hw]
  unfold writeLine at he
  simp only [hreq] at he
  split at he
  · next hwt =>
    split at he
    · next below' _ _ _ hlow =>
      injection he with hst hbuf hhit ht
      exact ⟨below', .forwarded _ _ _ _ hw hwt hlow, by simp [← hst, servedLine, hw, hwt],
        by simp [← hbuf, servedBuf, hw], hhit.symm, ht.symm⟩
    · cases he
  · next hwt =>
    have hwt : c.wt = false := by simpa using hwt
    injection he with hst hbuf hhit ht
    exact ⟨below, .kept (.inr hwt), by simp [← hst, servedLine, hw, hwt], by simp [← hbuf, servedBuf, hw],
      hhit.symm, ht.symm⟩

theorem hitPath_ok {w : Nat} (he : hitPath c lower r lv below w = .ok st buf hit t) :
    ∃ below', Forwards c lower r below below' ∧
      st = push (lv.setLine (c.set r.addr) w (servedLine c r ((lv.line (c.set r.addr) w).touched c lv.tick))) below' ∧
      buf = servedBuf c r ((lv.line (c.set r.addr) w).touched c lv.tick) ∧ hit = true ∧ t = c.busLat + c.hitLat := by
  unfold hitPath at he
  dsimp only at he
  split at he
  · next hr =>
    injection he with hst hbuf hhit ht
    exact ⟨below, .kept (.inl hr), by simp [← hst, servedLine, CacheLine.touched, hr],
      by simp [← hbuf, servedBuf, CacheLine.touched, hr], hhit.symm, ht.symm⟩
  · next hw => exact writeLine_ok (by simpa using hw) he

theorem fillPath_ok {w twb : Nat} (he : fillPath c lower r lv below w twb = .ok st buf hit t) :
    ∃ below₂ fill h tf below', lower (fillReq c r) below = .ok below₂ fill h tf ∧ Forwards c lower r below₂ below' ∧
      st = push (lv.setLine (c.set r.addr) w (servedLine c r (filledLine c r.addr lv.tick fill))) below' ∧
      buf = servedBuf c r (filledLine c r.addr lv.tick fill) ∧ hit = false ∧ t = c.busLat + twb + tf := by
  unfold fillPath at he
  dsimp only at he
  split at he
  · cases he
  · next below₂ fill h tf hlow =>
    split at he
    · next hr =>
      injection he with hst hbuf hhit ht
      exact ⟨below₂, fill, h, tf, below₂, hlow, .kept (.inl hr), by simp [← hst, servedLine, filledLine, hr],
        by simp [← hbuf, servedBuf, filledLine, hr], hhit.symm, ht.symm⟩
    · next hw =>
      obtain ⟨below', hfwd, hrest⟩ := writeLine_ok (by simpa using hw) he
      exact ⟨below₂, fill, h, tf, below', hlow, hfwd, hrest⟩

theorem writeback_ok {old : CacheLine} (he : writeback c lower r old below = .ok st buf hit t) : Evicts c lower r old below st t := by
  unfold writeback at he
  split at he
  · next hdirty =>
    simp only [Bool.and_eq_true] at hdirty
    exact .written _ buf hit _ hdirty.1 hdirty.2 he
  · next hclean =>
    injection he with hst _ _ ht
    subst hst ht
    exact .kept (by simpa [← Bool.not_eq_true, imp_iff_not_or] using hclean)

theorem forwardMiss_ok (he : forwardMiss lower r lv below = .ok st buf hit t) :
    ∃ below' b h, lower r below = .ok below' b h t ∧ st = push lv below' ∧ buf = r.buf ∧ hit = false := by
  unfold forwardMiss at he
  split at he
  · next hlow =>
    injection he with hst hbuf hhit ht
    exact ⟨_, _, _, ht ▸ hlow, hst.symm, hbuf.symm, hhit.symm⟩
  · cases he

/-- The level after the writeback of the victim `old` has been counted (R87). -/
def Level.evicted (lv : Level) (old : CacheLine) : Level := if old.valid && old.dirty then lv.countWriteback else lv

/-- The way a miss replaces. -/
def victimOf (c : LevelCfg) (lv : Level) (a : Nat) : Nat := victim c.method (lv.ways (c.set a))

/-- The line a miss replaces. -/
def victimLine (c : LevelCfg) (lv : Level) (a : Nat) : CacheLine := lv.line (c.set a) (victimOf c lv a)

theorem allocate_ok (he : allocate c lower r lv below = .ok st buf hit t) :
    ∃ below₁ twb, Evicts c lower r (victimLine c lv r.addr) below below₁ twb ∧
      fillPath c lower r (lv.evicted (victimLine c lv r.addr)) below₁ (victimOf c lv r.addr) twb = .ok st buf hit t := by
  unfold allocate at he
  dsimp only at he
  split at he
  · cases he
  · next hwb => exact ⟨_, _, writeback_ok hwb, he⟩

/-- A request that is served took one of three paths (R73, R74, R75). -/
inductive Serves (c : LevelCfg) (lower : Req → Storage → Reply) (r : Req) (lv : Level) (below st : Storage) (buf : List Byte)
    (hit : Bool) (t : Nat) : Prop
  | hit (w : Nat) (hfound : findHit (lv.ways (c.set r.addr)) (c.tag r.addr) = some w)
      (h : hitPath c lower r ((lv.arrive r.isPrefetch).countHit r.isPrefetch) below w = .ok st buf hit t)
  | forward (hmiss : findHit (lv.ways (c.set r.addr)) (c.tag r.addr) = none) (hw : r.isRead = false) (hwa : c.wa = false)
      (h : forwardMiss lower r ((lv.arrive r.isPrefetch).countMiss r.isPrefetch) below = .ok st buf hit t)
  | allocate (hmiss : findHit (lv.ways (c.set r.addr)) (c.tag r.addr) = none) (hra : r.isRead = true ∨ c.wa = true)
      (h : allocate c lower r ((lv.arrive r.isPrefetch).countMiss r.isPrefetch) below = .ok st buf hit t)

theorem serve_ok {i : Nat} (he : serve i c lower r lv below = .ok st buf hit t) :
    c.off r.addr + r.bytes ≤ c.lineSize ∧ Serves c lower r lv below st buf hit t := by
  by_cases hfits : c.off r.addr + r.bytes ≤ c.lineSize
  · refine ⟨hfits, ?_⟩
    cases hfound : findHit (lv.ways (c.set r.addr)) (c.tag r.addr) with
    | some w => exact .hit w hfound (serve_hit hfits hfound ▸ he)
    | none =>
      by_cases hra : r.isRead = true ∨ c.wa = true
      · exact .allocate hfound hra (serve_allocate hfits hfound hra ▸ he)
      · obtain ⟨hw, hwa⟩ : r.isRead = false ∧ c.wa = false := by simpa using hra
        exact .forward hfound hw hwa (serve_forward hfits hfound hw hwa ▸ he)
  · rw [serve_crossing (Nat.lt_of_not_le hfits)] at he
    cases he

end Inversion

theorem evicted_cases (lv : Level) (old : CacheLine) : lv.evicted old = lv ∨ lv.evicted old = lv.countWriteback := by
  unfold Level.evicted
  split
  · exact .inr rfl
  · exact .inl rfl

@[simp] theorem evicted_sets (lv : Level) (old : CacheLine) : (lv.evicted old).sets = lv.sets := by
  rcases evicted_cases lv old with he | he <;> rw [he]; rfl

/-! ### Bounds, times and a no-write-allocate miss -/

/-- Settles O56: both checks come first. -/
theorem boundsErrorsComeFirst : Obligations.BoundsErrorsComeFirst := by
  refine ⟨fun cfg c cs i r st hne hcross => ?_, fun cfg i r st hout => memHandle_bounds hout⟩
  obtain ⟨levels, pmem, fresh⟩ := st
  cases levels with
  | nil => exact absurd rfl hne
  | cons lv rest => simp only [handle, serve_crossing hcross, withPrefetch, push]

/-- Settles O59: `serve` forwards the write, with only the tick and the counts of the level changed. -/
theorem noWriteAllocateInstallsNothing : Obligations.NoWriteAllocateInstallsNothing := by
  intro i c lower r lv below hwa hw hfits hmiss b buf hit time hlow
  refine ⟨(lv.arrive r.isPrefetch).countMiss r.isPrefetch, ?_, rfl, rfl⟩
  rw [serve_forward hfits hmiss hw hwa, forwardMiss, hlow]

/-- Settles O60: the three paths of `serve_ok`, with the victim of `allocate` dirty or not. -/
theorem timesAndWritebacks : Obligations.TimesAndWritebacks := by
  intro i c lower r lv below st buf hit time he found old fill evict
  obtain ⟨-, hserves⟩ := serve_ok he
  refine ⟨fun w hfound => ?_, fun hmiss hra => ?_⟩
  · cases hserves with
    | hit w' _ h =>
      obtain ⟨below', -, rfl, -, hhit, ht⟩ := hitPath_ok h
      exact ⟨hhit, ht, _, rfl, rfl⟩
    | forward hmiss | allocate hmiss => cases hmiss.symm.trans hfound
  · cases hserves with
    | hit w hfound => cases hmiss.symm.trans hfound
    | forward _ hw hwa => simp [hw, hwa] at hra
    | allocate _ _ h =>
      obtain ⟨below₁, twb, hevict, h⟩ := allocate_ok h
      obtain ⟨below₂, data, h₂, tf, below', hfill, -, rfl, -, hhit, ht⟩ := fillPath_ok h
      refine ⟨hhit, fun hv hd => ?_, fun hclean => ?_⟩
      · cases hevict with
        | kept hno => exact absurd (show old.valid = false ∨ old.dirty = false from hno) (by simp [hv, hd])
        | written _ b h₁ _ _ _ hlow =>
          refine ⟨below₁, b, h₁, twb, below₂, data, h₂, tf, hlow, hfill, ht, _, rfl, ?_⟩
          show (Level.evicted _ old).writebacks = _
          simp [Level.evicted, hv, hd, Level.countWriteback, Level.countMiss, Level.arrive]
      · cases hevict with
        | written _ _ _ _ hv hd =>
          exact absurd hclean (by simp [show old.valid = true from hv, show old.dirty = true from hd])
        | kept =>
          refine ⟨below₂, data, h₂, tf, hfill, ht, _, rfl, ?_⟩
          show (Level.evicted _ old).writebacks = _
          rcases hclean with hno | hno <;> simp [Level.evicted, hno, Level.countMiss, Level.arrive]

end Sys2Proof.Machine

namespace Sys2Proof.Machine

/-! SUPPORT. The architectural view (20_memory.md R70, R97), level by level: which addresses a line holds, and what a level shows over what
the layers below show. -/

/-! ### The bytes of a line (R70) -/

/-- The sizes of a level are not 0 (R7). -/
structure Positive (c : LevelCfg) : Prop where
  line : 0 < c.lineSize
  sets : 0 < c.sets
  assoc : 0 < c.assoc

theorem pos_of_isPow2 {n : Nat} (h : isPow2 n = true) : 0 < n := by
  rw [eq_of_beq h]
  exact Nat.two_pow_pos _

theorem positive_of_admitted {c : LevelCfg} (h : c.admitted = true) : Positive c := by
  simp only [LevelCfg.admitted, Bool.and_eq_true, decide_eq_true_eq] at h
  obtain ⟨⟨-, hsets⟩, hline⟩ := h
  have hsets := pos_of_isPow2 hsets
  refine ⟨by omega, hsets, Nat.pos_of_ne_zero fun h0 => ?_⟩
  simp [LevelCfg.sets, h0] at hsets

section Address

variable {c : LevelCfg} {a p s t : Nat}

/-- The number of a line: its set and tag are its remainder and quotient by the number of sets. -/
theorem div_lineSize (c : LevelCfg) (p : Nat) : p / c.lineSize = c.tag p * c.sets + c.set p := by
  rw [LevelCfg.tag, LevelCfg.set, ← Nat.div_div_eq_div_mul, Nat.mul_comm]
  exact (Nat.div_add_mod _ _).symm

/-- The line of set `s` and tag `t` holds the `L` bytes from its line address (R70). -/
theorem inLine_iff (hc : Positive c) (hs : s < c.sets) :
    (c.set p = s ∧ c.tag p = t) ↔ c.lineAddr s t ≤ p ∧ p < c.lineAddr s t + c.lineSize := by
  have hblock : (c.set p = s ∧ c.tag p = t) ↔ p / c.lineSize = t * c.sets + s := by
    constructor
    · rintro ⟨rfl, rfl⟩
      exact div_lineSize c p
    · intro h
      have hset : c.set p = s := by rw [LevelCfg.set, h, Nat.mul_add_mod_self_right, Nat.mod_eq_of_lt hs]
      refine ⟨hset, ?_⟩
      rw [div_lineSize, hset] at h
      exact Nat.eq_of_mul_eq_mul_right hc.sets (Nat.add_right_cancel h)
  rw [hblock, Nat.div_eq_iff hc.line, LevelCfg.lineAddr]
  have := hc.line
  omega

theorem base_eq_lineAddr (c : LevelCfg) (p : Nat) : c.base p = c.lineAddr (c.set p) (c.tag p) := by
  have h := Nat.div_add_mod p c.lineSize
  rw [LevelCfg.lineAddr, ← div_lineSize, LevelCfg.base, Nat.mul_comm]
  omega

theorem base_add_off (c : LevelCfg) (p : Nat) : c.base p + c.off p = p := Nat.sub_add_cancel (Nat.mod_le _ _)

theorem set_lt (hc : Positive c) (p : Nat) : c.set p < c.sets := Nat.mod_lt _ hc.sets

theorem off_lt (hc : Positive c) (p : Nat) : c.off p < c.lineSize := Nat.mod_lt _ hc.line

/-- Two addresses are bytes of one line. -/
abbrev SameLine (c : LevelCfg) (p a : Nat) : Prop := c.set p = c.set a ∧ c.tag p = c.tag a

theorem SameLine.refl (c : LevelCfg) (a : Nat) : SameLine c a a := ⟨rfl, rfl⟩

theorem SameLine.base_eq (h : SameLine c p a) : c.base p = c.base a := by rw [base_eq_lineAddr, base_eq_lineAddr, h.1, h.2]

theorem sameLine_iff (hc : Positive c) : SameLine c p a ↔ c.base a ≤ p ∧ p < c.base a + c.lineSize := by
  rw [SameLine, inLine_iff hc (set_lt hc a), ← base_eq_lineAddr]

end Address

/-! ### The line that holds an address (R72) -/

/-- The line of a level that holds address `p`, if one does. -/
def Level.held (c : LevelCfg) (lv : Level) (p : Nat) : Option CacheLine :=
  (lv.ways (c.set p)).find? fun l => l.valid && l.tag == c.tag p

/-- What a level shows at `p` over what the layers below show (R97). -/
def Level.shows (c : LevelCfg) (lv : Level) (v : Nat → Byte) (p : Nat) : Byte :=
  match lv.held c p with
  | some l => l.data.getD (c.off p) Memory.blank
  | none => v p

section Held

variable {c : LevelCfg} {lv : Level} {p w s : Nat} {l : CacheLine} {v : Nat → Byte}

theorem held_of_findHit (h : findHit (lv.ways (c.set p)) (c.tag p) = some w) : lv.held c p = some (lv.line (c.set p) w) := by
  obtain ⟨hw, hp, hbefore⟩ := List.findIdx?_eq_some_iff_getElem.mp h
  rw [Level.held, List.find?_eq_some_iff_getElem]
  have hline : lv.line (c.set p) w = (lv.ways (c.set p))[w] := by simp [Level.line, hw]
  exact ⟨hline ▸ hp, w, hw, hline.symm, fun j hj => by rw [Bool.eq_false_iff.mpr (hbefore j hj), Bool.not_false]⟩

theorem held_eq_none_iff : lv.held c p = none ↔ findHit (lv.ways (c.set p)) (c.tag p) = none := by
  simp [Level.held, findHit]

theorem held_some_iff : lv.held c p = some l ↔ ∃ w, findHit (lv.ways (c.set p)) (c.tag p) = some w ∧ lv.line (c.set p) w = l := by
  constructor
  · intro h
    cases hf : findHit (lv.ways (c.set p)) (c.tag p) with
    | none => rw [held_eq_none_iff.mpr hf] at h; cases h
    | some w => exact ⟨w, rfl, Option.some.inj ((held_of_findHit hf).symm.trans h)⟩
  · rintro ⟨w, hf, rfl⟩
    exact held_of_findHit hf

theorem shows_of_held (h : lv.held c p = some l) : lv.shows c v p = l.data.getD (c.off p) Memory.blank := by
  simp [Level.shows, h]

theorem shows_of_none (h : lv.held c p = none) : lv.shows c v p = v p := by simp [Level.shows, h]

theorem held_congr {lv' : Level} (h : lv'.sets = lv.sets) : lv'.held c = lv.held c := by
  funext p
  simp [Level.held, Level.ways, h]

theorem shows_congr {lv' : Level} (h : lv'.sets = lv.sets) : lv'.shows c = lv.shows c := by
  funext v p
  simp [Level.shows, held_congr h]

/-- With one way per tag, the line of a valid way is the one that holds its addresses. -/
theorem held_of_line (hone : (lv.ways (c.set p)).Pairwise fun a b => a.valid = true → b.valid = true → a.tag ≠ b.tag)
    (hv : (lv.line (c.set p) w).valid = true) (ht : (lv.line (c.set p) w).tag = c.tag p) :
    lv.held c p = some (lv.line (c.set p) w) := by
  have hw : w < (lv.ways (c.set p)).length := by
    by_contra hw
    simp [Level.line, List.getElem?_eq_none (Nat.le_of_not_lt hw), CacheLine.empty] at hv
  have hline : (lv.ways (c.set p))[w] = lv.line (c.set p) w := by simp [Level.line, hw]
  rw [Level.held, List.find?_eq_some_iff_getElem]
  refine ⟨by simp [hv, ht], w, hw, hline, fun j hj => ?_⟩
  have hne := List.pairwise_iff_getElem.mp hone j w (Nat.lt_trans hj hw) hw hj
  rw [hline, ht] at hne
  rw [Bool.not_eq_true', Bool.eq_false_iff]
  simpa using fun hvj => hne hvj hv

theorem ways_setLine (lv : Level) (s w s' : Nat) (l : CacheLine) :
    (lv.setLine s w l).ways s' = if s' = s then (lv.ways s).set w l else lv.ways s' := by
  by_cases h : s' = s
  · subst h
    by_cases hs : s' < lv.sets.length
    · simp [Level.ways, Level.setLine, hs]
    · simp [Level.ways, Level.setLine, hs]
  · simp [Level.ways, Level.setLine, Ne.symm h, h]

/-- A set with way `w` replaced, written around that way. -/
theorem ways_split {ways : List CacheLine} {w : Nat} (hw : w < ways.length) (l : CacheLine) :
    ∃ left right, ways = left ++ ways[w] :: right ∧ ways.set w l = left ++ l :: right :=
  ⟨ways.take w, ways.drop (w + 1), by rw [List.getElem_cons_drop, List.take_append_drop],
    by rw [List.set_eq_take_append_cons_drop, if_pos hw]⟩

/-- After a line has taken a place, it holds its own addresses, no line holds those of the line it replaced, and every other address is
held as before. -/
theorem held_setLine (hw : w < (lv.ways s).length)
    (hone : (lv.ways s).Pairwise fun a b => a.valid = true → b.valid = true → a.tag ≠ b.tag) (hl : lv.Takes c s w l) (p : Nat) :
    (lv.setLine s w l).held c p =
      if c.set p = s ∧ c.tag p = l.tag then some l
      else if c.set p = s ∧ (lv.line s w).valid = true ∧ (lv.line s w).tag = c.tag p then none
      else lv.held c p := by
  by_cases hs : c.set p = s
  · subst hs
    have hline : (lv.ways (c.set p))[w] = lv.line (c.set p) w := by simp [Level.line, hw]
    obtain ⟨left, right, hsplit, hset⟩ := ways_split hw l
    rw [hline] at hsplit
    have hother := hl.tag_ne hsplit hone
    rw [hsplit] at hone
    rw [Level.held, ways_setLine, if_pos rfl, hset, Level.held, hsplit]
    rw [List.find?_append, List.find?_append, List.find?_cons, List.find?_cons]
    by_cases ht : c.tag p = l.tag
    · have hnone : left.find? (fun x => x.valid && x.tag == l.tag) = none := by
        rw [List.find?_eq_none]
        intro x hx
        simpa using hother x (List.mem_append_left _ hx)
      simp [hnone, hl.valid, ht]
    · have hl' : (l.valid && l.tag == c.tag p) = false := by simp [Ne.symm ht]
      by_cases hold : (lv.line (c.set p) w).valid = true ∧ (lv.line (c.set p) w).tag = c.tag p
      · rw [List.pairwise_middle swapTags, List.pairwise_cons] at hone
        have hnone : ∀ x ∈ left ++ right, x.valid = true → ¬ x.tag = c.tag p := fun x hx hv ht' =>
          hone.1 x hx hold.1 hv (hold.2.trans ht'.symm)
        simp only [List.forall_mem_append] at hnone
        simpa [ht, hl', hold] using hnone
      · have hno : ((lv.line (c.set p) w).valid && (lv.line (c.set p) w).tag == c.tag p) = false := by simpa using hold
        simp [ht, hl', hold, hno]
  · simp [Level.held, ways_setLine, hs]

end Held

/-! ### Bytes in place of bytes -/

theorem getD_splice {data buf : List Byte} {off : Nat} (h : off + buf.length ≤ data.length) (k : Nat) :
    (splice data off buf).getD k Memory.blank =
      if off ≤ k ∧ k < off + buf.length then buf.getD (k - off) Memory.blank else data.getD k Memory.blank := by
  simp only [splice, List.getD_eq_getElem?_getD, List.getElem?_append, List.length_append, List.length_take, List.getElem?_take,
    List.getElem?_drop]
  have hmin : min off data.length = off := by omega
  rw [hmin]
  by_cases h1 : k < off
  · rw [if_pos (by omega), if_pos h1, if_pos h1, if_neg (by omega)]
  · by_cases h2 : k < off + buf.length
    · rw [if_pos h2, if_neg h1, if_pos (by omega)]
    · rw [if_neg h2, if_neg (by omega)]
      congr 2
      omega

theorem slice_eq_map {data : List Byte} {off n : Nat} (h : off + n ≤ data.length) :
    slice data off n = (List.range n).map fun k => data.getD (off + k) Memory.blank := by
  apply List.ext_getElem
  · simpa using length_slice h
  · intro k h₁ h₂
    have hk : off + k < data.length := by simp at h₂; omega
    simp [slice, hk]

/-! ### Coherence, level by level -/

/-- The bytes a request leaves at `p` of a view `v`: a write puts its buffer at its address (R97). -/
def Req.leaves (r : Req) (v : Nat → Byte) (p : Nat) : Byte :=
  if r.isRead = false ∧ r.addr ≤ p ∧ p < r.addr + r.bytes then r.buf.getD (p - r.addr) Memory.blank else v p

theorem leaves_of_read {r : Req} (h : r.isRead = true) (v : Nat → Byte) : r.leaves v = v := by
  funext p
  simp [Req.leaves, h]

theorem leaves_outside {r : Req} {p : Nat} (h : ¬ (r.addr ≤ p ∧ p < r.addr + r.bytes)) (v : Nat → Byte) : r.leaves v p = v p :=
  if_neg fun hp => h hp.2

/-- `View` of the rest of a chain (R97). -/
def Storage.viewFrom (cs : List LevelCfg) (st : Storage) : Nat → Byte := viewAt cs st.levels st.pmem

/-- `Storage.Coherent` of the rest of a chain. -/
def Storage.CoherentFrom (cfg : Config) (cs : List LevelCfg) (st : Storage) : Prop := st.Coherent { cfg with levels := cs }

/-- A level over the view `v` of the layers below: its clean lines agree with it, and all of them lie in memory. -/
structure Level.Agrees (cfg : Config) (c : LevelCfg) (lv : Level) (v : Nat → Byte) : Prop where
  clean : ∀ p l, lv.held c p = some l → l.dirty = false → l.data.getD (c.off p) Memory.blank = v p
  inMemory : ∀ p l, lv.held c p = some l → c.base p + c.lineSize ≤ cfg.physMemSize

section Push

variable {cfg : Config} {c : LevelCfg} {cs : List LevelCfg} {lv : Level} {st : Storage}

theorem viewFrom_push : (push lv st).viewFrom (c :: cs) = lv.shows c (st.viewFrom cs) := by
  funext p
  simp only [Storage.viewFrom, push, viewAt, Level.shows]
  cases hf : findHit (lv.ways (c.set p)) (c.tag p) with
  | none => rw [held_eq_none_iff.mpr hf]
  | some w => rw [held_of_findHit hf]

theorem coherentFrom_push :
    (push lv st).CoherentFrom cfg (c :: cs) ↔ lv.Agrees cfg c (st.viewFrom cs) ∧ st.CoherentFrom cfg cs := by
  constructor
  · rintro ⟨⟨hclean, hcleans⟩, ⟨hmem, hmems⟩⟩
    refine ⟨⟨fun p l hl hd => ?_, fun p l hl => ?_⟩, ⟨hcleans, hmems⟩⟩
    all_goals obtain ⟨w, hf, rfl⟩ := held_some_iff.mp hl
    · exact hclean p w hf hd
    · exact hmem p w hf
  · rintro ⟨⟨hclean, hmem⟩, ⟨hcleans, hmems⟩⟩
    exact ⟨⟨fun p w hf => hclean p _ (held_of_findHit hf), hcleans⟩, ⟨fun p w hf => hmem p _ (held_of_findHit hf), hmems⟩⟩

theorem Level.Agrees.congr {lv' : Level} {v : Nat → Byte} (h : lv.Agrees cfg c v) (hs : lv'.sets = lv.sets) : lv'.Agrees cfg c v :=
  ⟨by rw [held_congr hs]; exact h.clean, by rw [held_congr hs]; exact h.inMemory⟩

end Push

end Sys2Proof.Machine

namespace Sys2Proof.Machine

/-! SUPPORT and PROOF. A request that is served answers the view and leaves in it exactly what it writes (20_memory.md R97, R100). One lemma
per function of the chain, over any layer below that does the same. -/

/-- A request that has been served and left `st'`: it lies in memory, a read has answered the view, the view shows what the request leaves
in it, and clean lines agree with the layers below. -/
structure AnswersView (cfg : Config) (cs : List LevelCfg) (r : Req) (st st' : Storage) (buf : List Byte) : Prop where
  inMemory : r.addr + r.bytes ≤ cfg.physMemSize
  read : r.isRead = true → buf = (List.range r.bytes).map fun k => st.viewFrom cs (r.addr + k)
  view : st'.viewFrom cs = r.leaves (st.viewFrom cs)
  coherent : st'.CoherentFrom cfg cs

/-- A layer that answers the view. -/
def KeepsView (cfg : Config) (cs : List LevelCfg) (f : Req → Storage → Reply) : Prop :=
  ∀ r st st' buf hit t, r.Carries → st.SoundFrom cfg cs → st.CoherentFrom cfg cs → f r st = .ok st' buf hit t →
    AnswersView cfg cs r st st' buf

theorem AnswersView.of_view_eq {cfg : Config} {cs : List LevelCfg} {r : Req} {st₁ st₂ st' : Storage} {buf : List Byte}
    (h : AnswersView cfg cs r st₁ st' buf) (he : st₁.viewFrom cs = st₂.viewFrom cs) : AnswersView cfg cs r st₂ st' buf :=
  ⟨h.inMemory, he ▸ h.read, he ▸ h.view, h.coherent⟩

theorem KeepsSound.ok {cfg : Config} {cs : List LevelCfg} {f : Req → Storage → Reply} (hf : KeepsSound cfg cs f) {r : Req}
    {st st' : Storage} {buf : List Byte} {hit : Bool} {t : Nat} (hr : r.Carries) (hst : st.SoundFrom cfg cs)
    (he : f r st = .ok st' buf hit t) : st'.SoundFrom cfg cs ∧ (r.isRead = true → buf.length = r.bytes) := by
  have h := hf r st hr hst
  rw [he] at h
  exact ⟨h.storage, h.filled _ _ _ _ rfl⟩

theorem carries_fillReq (c : LevelCfg) (r : Req) : (fillReq c r).Carries := nofun

/-! ### Memory (R89) -/

theorem coherentFrom_nil (cfg : Config) (st : Storage) : st.CoherentFrom cfg [] := ⟨trivial, trivial⟩

theorem memHandle_keepsView (cfg : Config) : KeepsView cfg [] (memHandle cfg) := by
  intro r st st' buf hit t hr hst _ he
  by_cases hin : r.addr + r.bytes ≤ cfg.physMemSize
  · cases hread : r.isRead with
    | true =>
      rw [memHandle_read hin hread] at he
      injection he with hst' hbuf
      subst hst' hbuf
      exact ⟨hin, fun _ => rfl, (leaves_of_read hread _).symm, coherentFrom_nil _ _⟩
    | false =>
      rw [memHandle_write hin hread] at he
      injection he with hst' hbuf
      subst hst'
      refine ⟨hin, fun h => absurd (hread.symm.trans h) (by decide), ?_, coherentFrom_nil _ _⟩
      funext p
      show (st.pmem.writeBytes r.addr r.buf).read p = r.leaves st.pmem.read p
      simp [Memory.read_writeBytes _ hst.canonical, Req.leaves, hr hread, hread]
  · rw [memHandle_bounds (Nat.lt_of_not_le hin)] at he
    cases he

/-! ### The line a request is served from -/

section Line

variable {cfg : Config} {c : LevelCfg} {r : Req} {lv : Level} {l : CacheLine} {p a w : Nat} {v : Nat → Byte}

@[simp] theorem servedLine_tag (c : LevelCfg) (r : Req) (l : CacheLine) : (servedLine c r l).tag = l.tag := by
  unfold servedLine; split <;> rfl

theorem takes_servedLine {s : Nat} (h : lv.Takes c s w l) : lv.Takes c s w (servedLine c r l) := by
  unfold servedLine
  split
  · exact h
  · exact { h with clean := fun hwt => by simp [h.clean hwt, hwt] }

/-- A clean line was served a read, or a write that was also forwarded. -/
theorem clean_of_servedLine (h : (servedLine c r l).dirty = false) : l.dirty = false ∧ (r.isRead = true ∨ c.wt = true) := by
  unfold servedLine at h
  split at h
  · next hr => exact ⟨h, .inl hr⟩
  · simp only [Bool.or_eq_false_iff, Bool.not_eq_false'] at h
    exact ⟨h.1, .inr h.2⟩

theorem leaves_congr {v' : Nat → Byte} (h : v p = v' p) : r.leaves v p = r.leaves v' p := by simp [Req.leaves, h]

/-- A request that fits a line asks for bytes of that line alone. -/
theorem sameLine_of_mem (hc : Positive c) (hfits : c.off r.addr + r.bytes ≤ c.lineSize) (hp : r.addr ≤ p ∧ p < r.addr + r.bytes) :
    SameLine c p r.addr := by
  rw [sameLine_iff hc]
  have := base_add_off c r.addr
  omega

theorem leaves_of_not_sameLine (hc : Positive c) (hfits : c.off r.addr + r.bytes ≤ c.lineSize) (hp : ¬ SameLine c p r.addr) :
    r.leaves v p = v p := leaves_outside (fun h => hp (sameLine_of_mem hc hfits h)) v

/-- Over the bytes of its line, serving a request leaves what the request leaves. -/
theorem getD_servedLine (hr : r.Carries) (hfits : c.off r.addr + r.bytes ≤ c.lineSize) (hlen : l.data.length = c.lineSize)
    (hp : SameLine c p r.addr) :
    (servedLine c r l).data.getD (c.off p) Memory.blank = r.leaves (fun q => l.data.getD (c.off q) Memory.blank) p := by
  cases hread : r.isRead with
  | true => simp [servedLine, leaves_of_read hread, hread]
  | false =>
    have hbuf := hr hread
    have hpoff := base_add_off c p
    have haoff := base_add_off c r.addr
    rw [hp.base_eq] at hpoff
    have hdiff : c.off p - c.off r.addr = p - r.addr := by omega
    have hiff : (c.off r.addr ≤ c.off p ∧ c.off p < c.off r.addr + r.buf.length) ↔ (r.addr ≤ p ∧ p < r.addr + r.bytes) := by omega
    simp only [servedLine, hread, Bool.false_eq_true, if_false, Req.leaves, true_and]
    rw [getD_splice (by rw [hbuf, hlen]; exact hfits), hdiff]
    simp only [hiff]

/-- A read is answered from the bytes of its line. -/
theorem servedBuf_read (hc : Positive c) (hread : r.isRead = true) (hfits : c.off r.addr + r.bytes ≤ c.lineSize)
    (hlen : l.data.length = c.lineSize) (hshown : ∀ p, SameLine c p r.addr → l.data.getD (c.off p) Memory.blank = v p) :
    servedBuf c r l = (List.range r.bytes).map fun k => v (r.addr + k) := by
  rw [servedBuf, if_pos hread, slice_eq_map (by rw [hlen]; exact hfits)]
  refine List.map_congr_left fun k hk => ?_
  have hk := List.mem_range.mp hk
  have hsame : SameLine c (r.addr + k) r.addr := sameLine_of_mem hc hfits ⟨by omega, by omega⟩
  have hoff : c.off (r.addr + k) = c.off r.addr + k := by
    have h1 := base_add_off c (r.addr + k)
    have h2 := base_add_off c r.addr
    rw [hsame.base_eq] at h1
    omega
  rw [← hshown _ hsame, hoff]

/-- A line that may take way `w` for address `a` in a level over the view `v`: it shows what the level shows, and if it is clean, what
the layers below show; and they show the line that it replaces. -/
structure Level.Fits (cfg : Config) (c : LevelCfg) (lv : Level) (v : Nat → Byte) (a w : Nat) (l : CacheLine) : Prop where
  takes : lv.Takes c (c.set a) w l
  inSet : w < (lv.ways (c.set a)).length
  tag : l.tag = c.tag a
  length : l.data.length = c.lineSize
  inMemory : c.base a + c.lineSize ≤ cfg.physMemSize
  shown : ∀ p, SameLine c p a → l.data.getD (c.off p) Memory.blank = lv.shows c v p
  clean : l.dirty = false → ∀ p, SameLine c p a → l.data.getD (c.off p) Memory.blank = v p
  kept : (lv.line (c.set a) w).valid = true → ∀ p, c.set p = c.set a → (lv.line (c.set a) w).tag = c.tag p → ¬ SameLine c p a →
    (lv.line (c.set a) w).data.getD (c.off p) Memory.blank = v p

theorem ways_mem {s : Nat} (h : w < (lv.ways s).length) : lv.ways s ∈ lv.sets := by
  by_cases hs : s < lv.sets.length
  · simp [Level.ways, hs]
  · simp [Level.ways, List.getElem?_eq_none (Nat.le_of_not_lt hs)] at h

theorem Level.Fits.held (h : lv.Fits cfg c v r.addr w l) (hlv : lv.Sound c) (p : Nat) :
    (lv.setLine (c.set r.addr) w (servedLine c r l)).held c p =
      if SameLine c p r.addr then some (servedLine c r l)
      else if c.set p = c.set r.addr ∧ (lv.line (c.set r.addr) w).valid = true ∧ (lv.line (c.set r.addr) w).tag = c.tag p then none
      else lv.held c p := by
  rw [held_setLine h.inSet (hlv.oneWay _ (ways_mem h.inSet)) (takes_servedLine h.takes), servedLine_tag, h.tag]

/-- Serving a request from a line that fits: the level shows what the request leaves, over layers below that have been forwarded the
write or not. -/
theorem Level.Fits.serve (h : lv.Fits cfg c v r.addr w l) (hc : Positive c) (hlv : lv.Sound c) (hag : lv.Agrees cfg c v)
    (hr : r.Carries) (hfits : c.off r.addr + r.bytes ≤ c.lineSize) :
    (lv.setLine (c.set r.addr) w (servedLine c r l)).shows c (if c.wt then r.leaves v else v) = r.leaves (lv.shows c v) ∧
    (lv.setLine (c.set r.addr) w (servedLine c r l)).Agrees cfg c (if c.wt then r.leaves v else v) := by
  have hbelow : ∀ p, ¬ SameLine c p r.addr → (if c.wt then r.leaves v else v) p = v p := fun p hp => by
    split
    · exact leaves_of_not_sameLine hc hfits hp
    · rfl
  have hline : ∀ p, SameLine c p r.addr → (servedLine c r l).data.getD (c.off p) Memory.blank =
      r.leaves (fun q => l.data.getD (c.off q) Memory.blank) p := fun p hp => getD_servedLine hr hfits h.length hp
  refine ⟨funext fun p => ?_, fun p x hx hd => ?_, fun p x hx => ?_⟩
  · by_cases hp : SameLine c p r.addr
    · rw [shows_of_held (by rw [h.held hlv, if_pos hp]), hline p hp]
      exact leaves_congr (h.shown p hp)
    · rw [leaves_of_not_sameLine hc hfits hp]
      by_cases hold : c.set p = c.set r.addr ∧ (lv.line (c.set r.addr) w).valid = true ∧ (lv.line (c.set r.addr) w).tag = c.tag p
      · rw [shows_of_none (by rw [h.held hlv, if_neg hp, if_pos hold]), hbelow p hp]
        obtain ⟨hset, hvalid, htag⟩ := hold
        have hheld := held_of_line (hset ▸ hlv.oneWay _ (ways_mem h.inSet)) (hset ▸ hvalid) (hset ▸ htag)
        rw [shows_of_held hheld, hset]
        exact (h.kept hvalid p hset htag hp).symm
      · have hheld : (lv.setLine (c.set r.addr) w (servedLine c r l)).held c p = lv.held c p := by
          rw [h.held hlv, if_neg hp, if_neg hold]
        simp only [Level.shows, hheld, hbelow p hp]
  · rw [h.held hlv] at hx
    split_ifs at hx with hp hold
    · injection hx with hx
      subst hx
      obtain ⟨hclean, hfwd⟩ := clean_of_servedLine hd
      rw [hline p hp, leaves_congr (v' := v) (h.clean hclean p hp)]
      rcases hfwd with hread | hwt
      · simp [leaves_of_read hread]
      · rw [if_pos hwt]
    · rw [hbelow p hp]
      exact hag.clean p x hx hd
  · rw [h.held hlv] at hx
    split_ifs at hx with hp hold
    · rw [hp.base_eq]
      exact h.inMemory
    · exact hag.inMemory p x hx

end Line

/-! ### The paths of a level -/

section Level

variable {cfg : Config} {c : LevelCfg} {cs : List LevelCfg} {lower : Req → Storage → Reply} {r : Req} {lv : Level}
  {below st : Storage} {buf : List Byte} {hit : Bool} {t : Nat}

/-- What a forwarded write, or none, leaves of the storage below. -/
theorem Forwards.keeps {below' : Storage} (h : Forwards c lower r below below') (hl : KeepsView cfg cs lower) (hr : r.Carries)
    (hst : below.SoundFrom cfg cs) (hco : below.CoherentFrom cfg cs) :
    below'.viewFrom cs = (if c.wt then r.leaves (below.viewFrom cs) else below.viewFrom cs) ∧ below'.CoherentFrom cfg cs := by
  cases h with
  | forwarded _ _ _ _ hw hwt hlow =>
    have ha := hl _ _ _ _ _ _ hr hst hco hlow
    exact ⟨by rw [if_pos hwt, ha.view], ha.coherent⟩
  | kept hno =>
    refine ⟨?_, hco⟩
    rcases hno with hread | hwt
    · simp [leaves_of_read hread]
    · simp [hwt]

/-- A line that fits serves the request. -/
theorem Level.Fits.answers {below' : Storage} {w : Nat} {l : CacheLine} (h : lv.Fits cfg c (below.viewFrom cs) r.addr w l)
    (hl : KeepsView cfg cs lower) (hc : Positive c) (hlv : lv.Sound c) (hag : lv.Agrees cfg c (below.viewFrom cs))
    (hr : r.Carries) (hfits : c.off r.addr + r.bytes ≤ c.lineSize) (hst : below.SoundFrom cfg cs) (hco : below.CoherentFrom cfg cs)
    (hfwd : Forwards c lower r below below') :
    AnswersView cfg (c :: cs) r (push lv below) (push (lv.setLine (c.set r.addr) w (servedLine c r l)) below') (servedBuf c r l) := by
  obtain ⟨hview, hco'⟩ := hfwd.keeps hl hr hst hco
  obtain ⟨hshows, hagrees⟩ := h.serve hc hlv hag hr hfits
  refine ⟨?_, fun hread => ?_, ?_, ?_⟩
  · have := base_add_off c r.addr
    have := h.inMemory
    omega
  · rw [viewFrom_push]
    exact servedBuf_read hc hread hfits h.length h.shown
  · rw [viewFrom_push, viewFrom_push, hview, hshows]
  · rw [coherentFrom_push, hview]
    exact ⟨hagrees, hco'⟩

/-- A hit (R73): the line found is its own address's, so it fits. -/
theorem hitPath_answers (hl : KeepsView cfg cs lower) (hc : Positive c) {w : Nat} (hlv : lv.Arrived c)
    (hag : lv.Agrees cfg c (below.viewFrom cs)) (hfound : findHit (lv.ways (c.set r.addr)) (c.tag r.addr) = some w)
    (hr : r.Carries) (hfits : c.off r.addr + r.bytes ≤ c.lineSize) (hst : below.SoundFrom cfg cs) (hco : below.CoherentFrom cfg cs)
    (he : hitPath c lower r lv below w = .ok st buf hit t) : AnswersView cfg (c :: cs) r (push lv below) st buf := by
  obtain ⟨below', hfwd, rfl, rfl, -, -⟩ := hitPath_ok he
  obtain ⟨hvalid, htag⟩ := findHit_line hfound
  obtain ⟨hw, -, -⟩ := List.findIdx?_eq_some_iff_getElem.mp hfound
  have hheld : ∀ p, SameLine c p r.addr → lv.held c p = some (lv.line (c.set r.addr) w) := by
    rintro p ⟨hset, htag'⟩
    rw [← hset]
    exact held_of_findHit (by rw [hset, htag']; exact hfound)
  have hfit : lv.Fits cfg c (below.viewFrom cs) r.addr w ((lv.line (c.set r.addr) w).touched c lv.tick) := {
    takes := { valid := hvalid, newest := rfl, clean := hlv.clean_line hvalid, oneWay := .inl ⟨hvalid, rfl⟩ }
    inSet := hw
    tag := htag
    length := hlv.length_data hvalid
    inMemory := hag.inMemory _ _ (hheld _ (.refl c _))
    shown := fun p hp => (shows_of_held (hheld p hp)).symm
    clean := fun hd p hp => hag.clean p (lv.line (c.set r.addr) w) (hheld p hp) hd
    kept := fun _ p hset htag' hno => absurd ⟨hset, htag'.symm.trans htag⟩ hno }
  exact hfit.answers hl hc hlv.toSound hag hr hfits hst hco hfwd

/-- A no-write-allocate write miss (R74): the level has no line of the address, so the write below shows. -/
theorem forwardMiss_answers (hl : KeepsView cfg cs lower) (hc : Positive c)
    (hag : lv.Agrees cfg c (below.viewFrom cs)) (hmiss : findHit (lv.ways (c.set r.addr)) (c.tag r.addr) = none)
    (hr : r.Carries) (hw : r.isRead = false) (hfits : c.off r.addr + r.bytes ≤ c.lineSize) (hst : below.SoundFrom cfg cs)
    (hco : below.CoherentFrom cfg cs) (he : forwardMiss lower r lv below = .ok st buf hit t) :
    AnswersView cfg (c :: cs) r (push lv below) st buf := by
  obtain ⟨below', b, h, hlow, rfl, -, -⟩ := forwardMiss_ok he
  have ha := hl _ _ _ _ _ _ hr hst hco hlow
  have hother : ∀ p l, lv.held c p = some l → ∀ u, r.leaves u p = u p := by
    refine fun p l hp u => leaves_of_not_sameLine hc hfits ?_
    rintro ⟨hset, htag⟩
    rw [held_eq_none_iff.mpr (by rw [hset, htag]; exact hmiss)] at hp
    cases hp
  refine ⟨ha.inMemory, fun hread => absurd (hw.symm.trans hread) (by decide), ?_, ?_⟩
  · rw [viewFrom_push, viewFrom_push, ha.view]
    funext p
    cases hp : lv.held c p with
    | none => rw [shows_of_none hp]; exact leaves_congr (shows_of_none hp).symm
    | some l => rw [hother p l hp, shows_of_held hp, shows_of_held hp]
  · rw [coherentFrom_push, ha.view]
    exact ⟨⟨fun p l hp hd => (hag.clean p l hp hd).trans (hother p l hp _).symm, hag.inMemory⟩, ha.coherent⟩

/-- The writeback of a line leaves its bytes below, and no others. -/
theorem leaves_evictReq (hc : Positive c) (old : CacheLine) (v : Nat → Byte) (p : Nat) :
    (evictReq c r old).leaves v p =
      if c.set p = c.set r.addr ∧ c.tag p = old.tag then old.data.getD (c.off p) Memory.blank else v p := by
  by_cases hp : c.set p = c.set r.addr ∧ c.tag p = old.tag
  · have hbase : c.lineAddr (c.set r.addr) old.tag = c.base p := by rw [base_eq_lineAddr, hp.1, hp.2]
    have hoff : p - c.base p = c.off p := by have := base_add_off c p; omega
    rw [if_pos hp, Req.leaves, if_pos ⟨rfl, (inLine_iff hc (set_lt hc _)).mp hp⟩]
    simp only [evictReq, hbase, hoff]
  · rw [if_neg hp]
    exact leaves_outside (fun h => hp ((inLine_iff hc (set_lt hc _)).mpr h)) v

theorem carries_evictReq {w : Nat} (hlv : lv.Sound c) (hv : (lv.line (c.set r.addr) w).valid = true) :
    (evictReq c r (lv.line (c.set r.addr) w)).Carries := fun _ => hlv.length_data hv

/-- A valid line of a sound level is the one that holds its addresses. -/
theorem held_of_line_valid {s w p : Nat} (hc : Positive c) (hlv : lv.Sound c) (hv : (lv.line s w).valid = true)
    (hset : c.set p = s) (htag : (lv.line s w).tag = c.tag p) : lv.held c p = some (lv.line s w) := by
  subst hset
  have hlt := set_lt hc p
  rw [← hlv.sets] at hlt
  exact held_of_line (hlv.oneWay _ (by simp [Level.ways, hlt])) hv htag

/-- The storage below once the victim has been written back, if it was dirty (R77): nothing shows through differently, and the layers
below show the victim. -/
structure Evicted (cfg : Config) (c : LevelCfg) (cs : List LevelCfg) (lv : Level) (s w : Nat) (below below₁ : Storage) : Prop where
  sound : below₁.SoundFrom cfg cs
  coherent : below₁.CoherentFrom cfg cs
  agrees : lv.Agrees cfg c (below₁.viewFrom cs)
  shows : lv.shows c (below₁.viewFrom cs) = lv.shows c (below.viewFrom cs)
  victim : (lv.line s w).valid = true → ∀ p, c.set p = s → (lv.line s w).tag = c.tag p →
    (lv.line s w).data.getD (c.off p) Memory.blank = below₁.viewFrom cs p

theorem Evicts.evicted {below₁ : Storage} {w twb : Nat} (h : Evicts c lower r (lv.line (c.set r.addr) w) below below₁ twb)
    (hs : KeepsSound cfg cs lower) (hl : KeepsView cfg cs lower) (hc : Positive c) (hlv : lv.Sound c)
    (hag : lv.Agrees cfg c (below.viewFrom cs)) (hst : below.SoundFrom cfg cs) (hco : below.CoherentFrom cfg cs) :
    Evicted cfg c cs lv (c.set r.addr) w below below₁ := by
  have hheld := fun hv p hset htag => held_of_line_valid (w := w) (p := p) (s := c.set r.addr) hc hlv hv hset htag
  cases h with
  | kept hno =>
    refine ⟨hst, hco, hag, rfl, fun hv p hset htag => hag.clean p _ (hheld hv p hset htag) ?_⟩
    exact hno.resolve_left (by simp [hv])
  | written _ _ _ _ hv hd hlow =>
    have hcarries := carries_evictReq hlv hv
    have ha := hl _ _ _ _ _ _ hcarries hst hco hlow
    have hview : ∀ p, below₁.viewFrom cs p = if c.set p = c.set r.addr ∧ c.tag p = (lv.line (c.set r.addr) w).tag then
        (lv.line (c.set r.addr) w).data.getD (c.off p) Memory.blank else below.viewFrom cs p := fun p => by
      rw [ha.view, leaves_evictReq hc]
    refine ⟨(hs.ok hcarries hst hlow).1, ha.coherent, ⟨fun p l hp hd' => ?_, hag.inMemory⟩, funext fun p => ?_,
      fun _ p hset htag => by rw [hview, if_pos ⟨hset, htag.symm⟩]⟩
    · rw [hview]
      split
      · next hin =>
        rw [hheld hv p hin.1 hin.2.symm] at hp
        cases hp
        rfl
      · exact hag.clean p l hp hd'
    · cases hp : lv.held c p with
      | some l => rw [shows_of_held hp, shows_of_held hp]
      | none =>
        rw [shows_of_none hp, shows_of_none hp, hview, if_neg]
        rintro ⟨hset, htag⟩
        rw [hheld hv p hset htag.symm] at hp
        cases hp

/-- A level keeps its lines while it counts a writeback. -/
theorem Level.Arrived.evicted (hlv : lv.Arrived c) (old : CacheLine) : (lv.evicted old).Arrived c := by
  rcases evicted_cases lv old with he | he <;> rw [he]
  · exact hlv
  · exact hlv.countWriteback

theorem Evicted.congr {lv' : Level} {s w : Nat} {below₁ : Storage} (h : Evicted cfg c cs lv s w below below₁)
    (hsets : lv'.sets = lv.sets) : Evicted cfg c cs lv' s w below below₁ := by
  have hline : lv'.line s w = lv.line s w := by simp [Level.line, Level.ways, hsets]
  exact ⟨h.sound, h.coherent, h.agrees.congr hsets, by rw [shows_congr hsets]; exact h.shows, by rw [hline]; exact h.victim⟩

/-- Install and fill (R75, R78): the fill reads the line from the layers below, so it fits. -/
theorem fillPath_answers (hs : KeepsSound cfg cs lower) (hl : KeepsView cfg cs lower) (hc : Positive c) {below₁ : Storage} {w twb : Nat}
    (hlv : lv.Arrived c) (hev : Evicted cfg c cs lv (c.set r.addr) w below below₁)
    (hw : w < (lv.ways (c.set r.addr)).length) (hmiss : findHit (lv.ways (c.set r.addr)) (c.tag r.addr) = none)
    (hr : r.Carries) (hfits : c.off r.addr + r.bytes ≤ c.lineSize)
    (he : fillPath c lower r lv below₁ w twb = .ok st buf hit t) : AnswersView cfg (c :: cs) r (push lv below) st buf := by
  obtain ⟨below₂, fill, h, tf, below', hlow, hfwd, rfl, rfl, -, -⟩ := fillPath_ok he
  have ha := hl _ _ _ _ _ _ (carries_fillReq c r) hev.sound hev.coherent hlow
  obtain ⟨hst₂, hlen⟩ := hs.ok (carries_fillReq c r) hev.sound hlow
  have hview : below₂.viewFrom cs = below₁.viewFrom cs := ha.view.trans (leaves_of_read rfl _)
  have hfill : ∀ p, SameLine c p r.addr → fill.getD (c.off p) Memory.blank = below₂.viewFrom cs p := fun p hp => by
    have hoff : c.base r.addr + c.off p = p := by rw [← hp.base_eq]; exact base_add_off c p
    rw [ha.read rfl, hview]
    simp [fillReq, off_lt hc, hoff]
  have hnone : ∀ p, SameLine c p r.addr → lv.held c p = none := fun p hp =>
    held_eq_none_iff.mpr (by rw [hp.1, hp.2]; exact hmiss)
  have hfit : lv.Fits cfg c (below₂.viewFrom cs) r.addr w (filledLine c r.addr lv.tick fill) := {
    takes := { valid := rfl, newest := rfl, clean := fun _ => rfl, oneWay := .inr (findHit_none hmiss) }
    inSet := hw
    tag := rfl
    length := hlen rfl
    inMemory := ha.inMemory
    shown := fun p hp => by rw [shows_of_none (hnone p hp)]; exact hfill p hp
    clean := fun _ p hp => hfill p hp
    kept := fun hv p hset htag _ => by rw [hview]; exact hev.victim hv p hset htag }
  refine (hfit.answers hl hc hlv.toSound (hview ▸ hev.agrees) hr hfits hst₂ ha.coherent hfwd).of_view_eq ?_
  rw [viewFrom_push, viewFrom_push, hview, hev.shows]

/-- The victim is a way of its set. -/
theorem victimOf_lt (hc : Positive c) (hlv : lv.Sound c) (a : Nat) : victimOf c lv a < (lv.ways (c.set a)).length := by
  have hlt := set_lt hc a
  rw [← hlv.sets] at hlt
  have hlen : (lv.ways (c.set a)).length = c.assoc := hlv.ways _ (by simp [Level.ways, hlt])
  exact victim_lt _ (List.ne_nil_of_length_pos (hlen ▸ hc.assoc))

/-- An allocate miss (R75). -/
theorem allocate_answers (hs : KeepsSound cfg cs lower) (hl : KeepsView cfg cs lower) (hc : Positive c) (hlv : lv.Arrived c)
    (hag : lv.Agrees cfg c (below.viewFrom cs)) (hmiss : findHit (lv.ways (c.set r.addr)) (c.tag r.addr) = none)
    (hr : r.Carries) (hfits : c.off r.addr + r.bytes ≤ c.lineSize) (hst : below.SoundFrom cfg cs) (hco : below.CoherentFrom cfg cs)
    (he : allocate c lower r lv below = .ok st buf hit t) : AnswersView cfg (c :: cs) r (push lv below) st buf := by
  obtain ⟨below₁, twb, hevicts, he⟩ := allocate_ok he
  have hsets := evicted_sets lv (victimLine c lv r.addr)
  have hways : ∀ s, (lv.evicted (victimLine c lv r.addr)).ways s = lv.ways s := fun s => by simp [Level.ways]
  have hev := (hevicts.evicted hs hl hc hlv.toSound hag hst hco).congr hsets
  refine (fillPath_answers hs hl hc (hlv.evicted _) hev ?_ ?_ hr hfits he).of_view_eq ?_
  · rw [hways]
    exact victimOf_lt hc hlv.toSound r.addr
  · rw [hways]
    exact hmiss
  · rw [viewFrom_push, viewFrom_push, shows_congr hsets]

/-- One request at one level. -/
theorem serve_answers (hs : KeepsSound cfg cs lower) (hl : KeepsView cfg cs lower) (hc : Positive c) (i : Nat) (hlv : lv.Sound c)
    (hag : lv.Agrees cfg c (below.viewFrom cs)) (hr : r.Carries) (hst : below.SoundFrom cfg cs) (hco : below.CoherentFrom cfg cs)
    (he : serve i c lower r lv below = .ok st buf hit t) : AnswersView cfg (c :: cs) r (push lv below) st buf := by
  obtain ⟨hfits, hserves⟩ := serve_ok he
  have hview : ∀ lv' : Level, lv'.sets = lv.sets →
      (push lv' below).viewFrom (c :: cs) = (push lv below).viewFrom (c :: cs) := fun lv' hsets => by
    rw [viewFrom_push, viewFrom_push, shows_congr hsets]
  cases hserves with
  | hit w hfound h =>
    exact (hitPath_answers hl hc (hlv.arrivedHit _) (hag.congr rfl) hfound hr hfits hst hco h).of_view_eq (hview _ rfl)
  | forward hmiss hw _ h =>
    exact (forwardMiss_answers (lv := (lv.arrive _).countMiss _) hl hc (hag.congr rfl) hmiss hr hw hfits hst hco h).of_view_eq (hview _ rfl)
  | allocate hmiss _ h =>
    exact (allocate_answers hs hl hc (hlv.arrivedMiss _) (hag.congr rfl) hmiss hr hfits hst hco h).of_view_eq (hview _ rfl)

/-! ### Prefetches -/

/-- The reads of a prefetch loop change no byte of the view. -/
theorem prefetchLoop_keepsView {self : Req → Storage → Reply} (hs : KeepsSound cfg cs self) (hl : KeepsView cfg cs self)
    (base n k : Nat) {st st' : Storage} (hst : st.SoundFrom cfg cs) (hco : st.CoherentFrom cfg cs)
    (he : prefetchLoop cfg c self base n k st = .ok st' buf hit t) :
    st'.viewFrom cs = st.viewFrom cs ∧ st'.CoherentFrom cfg cs := by
  induction n generalizing k st with
  | zero =>
    injection he with hst'
    exact hst' ▸ ⟨rfl, hco⟩
  | succ n ih =>
    simp only [prefetchLoop] at he
    split at he
    · injection he with hst'
      exact hst' ▸ ⟨rfl, hco⟩
    · split at he
      · next hself =>
        have ha := hl _ _ _ _ _ _ (fun h => by cases h) hst hco hself
        obtain ⟨hview, hco'⟩ := ih (k + 1) (hs.ok (fun h => by cases h) hst hself).1 ha.coherent he
        exact ⟨hview.trans (ha.view.trans (leaves_of_read rfl _)), hco'⟩
      · cases he

/-- A demand request that is served was served by its level, and then its prefetches were. -/
theorem withPrefetch_ok {self : Req → Storage → Reply} {rep : Reply} (he : withPrefetch cfg c self r rep = .ok st buf hit t) :
    ∃ st₁, rep = .ok st₁ buf hit t ∧ (r.isPrefetch = true ∧ st = st₁ ∨
      r.isPrefetch = false ∧ ∃ b h x, prefetchLoop cfg c self (c.base r.addr) (c.prefetch - 1) 1 st₁ = .ok st b h x) := by
  cases rep with
  | bounds => cases he
  | ok st₁ b h x =>
    simp only [withPrefetch] at he
    split at he
    · next hp =>
      injection he with h1 h2 h3 h4
      subst h1 h2 h3 h4
      exact ⟨_, rfl, .inl ⟨hp, rfl⟩⟩
    · next hp =>
      split at he
      · next hloop =>
        injection he with h1 h2 h3 h4
        subst h1 h2 h3 h4
        exact ⟨_, rfl, .inr ⟨by simpa using hp, _, _, _, hloop⟩⟩
      · cases he

theorem withPrefetch_answers {self : Req → Storage → Reply} (hs : KeepsSound cfg cs self) (hl : KeepsView cfg cs self)
    {st st' : Storage} (hr : r.Carries) (hst : st.SoundFrom cfg cs) (hco : st.CoherentFrom cfg cs)
    (he : withPrefetch cfg c self r (self r st) = .ok st' buf hit t) : AnswersView cfg cs r st st' buf := by
  obtain ⟨st₁, hself, hend⟩ := withPrefetch_ok he
  have ha := hl _ _ _ _ _ _ hr hst hco hself
  rcases hend with ⟨-, rfl⟩ | ⟨-, b, h, x, hloop⟩
  · exact ha
  · obtain ⟨hview, hco'⟩ := prefetchLoop_keepsView hs hl _ _ _ (hs.ok hr hst hself).1 ha.coherent hloop
    exact ⟨ha.inMemory, ha.read, hview.trans ha.view, hco'⟩

end Level

/-! ### The chain (R67) -/

/-- One request at the level at the head of a storage, without its prefetches: what `handle` asks of its own level. -/
def atLevel (cfg : Config) (i : Nat) (c : LevelCfg) (lower : Req → Storage → Reply) (r : Req) (st : Storage) : Reply :=
  match st.levels with
  | [] => memHandle cfg r st
  | lv :: rest => serve i c lower r lv { st with levels := rest }

theorem handle_cons (cfg : Config) (i : Nat) (c : LevelCfg) (cs : List LevelCfg) (r : Req) (st : Storage) :
    handle cfg i (c :: cs) r st = withPrefetch cfg c (atLevel cfg i c (handle cfg (i + 1) cs)) r
      (atLevel cfg i c (handle cfg (i + 1) cs) r st) := rfl

/-- A sound storage has its top level. -/
theorem soundFrom_cons {cfg : Config} {c : LevelCfg} {cs : List LevelCfg} {st : Storage}
    (h : st.SoundFrom cfg (c :: cs)) : ∃ lv below, st = push lv below ∧ lv.Sound c ∧ below.SoundFrom cfg cs := by
  obtain ⟨lv, rest, hlevels, hlv, hbelow⟩ := h.top
  exact ⟨lv, { st with levels := rest }, by simp [push, ← hlevels], hlv, hbelow⟩

theorem atLevel_keepsSound {cfg : Config} {c : LevelCfg} {cs : List LevelCfg} {lower : Req → Storage → Reply} (i : Nat)
    (hs : KeepsSound cfg cs lower) : KeepsSound cfg (c :: cs) (atLevel cfg i c lower) := by
  intro r st hr hst
  obtain ⟨lv, below, rfl, hlv, hbelow⟩ := soundFrom_cons hst
  exact serve_sound hs i hlv hr hbelow

theorem atLevel_keepsView {cfg : Config} {c : LevelCfg} {cs : List LevelCfg} {lower : Req → Storage → Reply} (i : Nat)
    (hc : Positive c) (hs : KeepsSound cfg cs lower) (hl : KeepsView cfg cs lower) : KeepsView cfg (c :: cs) (atLevel cfg i c lower) := by
  intro r st st' buf hit t hr hst hco he
  obtain ⟨lv, below, rfl, hlv, hbelow⟩ := soundFrom_cons hst
  obtain ⟨hag, hco⟩ := coherentFrom_push.mp hco
  exact serve_answers hs hl hc i hlv hag hr hbelow hco he

/-- Every layer of the chain answers the view. -/
theorem handle_keepsView (cfg : Config) (cs : List LevelCfg) (hcs : ∀ c ∈ cs, Positive c) (i : Nat) :
    KeepsView cfg cs (handle cfg i cs) := by
  induction cs generalizing i with
  | nil => exact memHandle_keepsView cfg
  | cons c cs ih =>
    intro r st st' buf hit t hr hst hco he
    have hs := handle_keepsSound cfg cs (i + 1)
    have hl := ih (fun c hc => hcs c (List.mem_cons_of_mem _ hc)) (i + 1)
    rw [handle_cons] at he
    exact withPrefetch_answers (atLevel_keepsSound i hs) (atLevel_keepsView i (hcs c (by simp)) hs hl) hr hst hco he

theorem positive_of_config {cfg : Config} (h : cfg.admitted = true) : ∀ c ∈ cfg.levels, Positive c := by
  intro c hc
  simp only [Config.admitted, Bool.and_eq_true, List.all_eq_true] at h
  obtain ⟨⟨⟨⟨⟨⟨⟨hlevels, -⟩, -⟩, -⟩, -⟩, -⟩, -⟩, -⟩ := h
  exact positive_of_admitted (hlevels c hc)

/-- A request at the top that is served answers the view. -/
theorem handleTop_answers {cfg : Config} {r : Req} {st st' : Storage} {buf : List Byte} {hit : Bool} {t : Nat}
    (hcfg : cfg.admitted = true) (hr : r.Carries) (hst : st.Sound cfg) (hco : st.Coherent cfg)
    (he : handleTop cfg r st = .ok st' buf hit t) : AnswersView cfg cfg.levels r st st' buf :=
  handle_keepsView cfg cfg.levels (positive_of_config hcfg) 1 r st st' buf hit t hr hst hco he

/-- Settles O53: a read leaves the view as it is. -/
theorem readsReturnTheView : Obligations.ReadsReturnTheView := by
  intro cfg st st' r buf hit time hcfg hst hco hread he
  have h := handleTop_answers hcfg (fun hw => absurd (hread.symm.trans hw) (by decide)) hst hco he
  exact ⟨h.read hread, fun p => congrFun (h.view.trans (leaves_of_read hread _)) p, h.coherent⟩

/-- Settles O54: a write leaves its buffer in the view, and nothing else. -/
theorem writesChangeTheirBytesOnly : Obligations.WritesChangeTheirBytesOnly := by
  intro cfg st st' r buf hit time hcfg hst hco hw hlen he
  have h := handleTop_answers hcfg (fun _ => hlen) hst hco he
  refine ⟨fun p => (congrFun h.view p).trans ?_, h.coherent⟩
  simp only [Req.leaves, hw, true_and]
  rfl

end Sys2Proof.Machine

namespace Sys2Proof.Machine

/-! PROOF. Every step that does not raise keeps the caches coherent (20_memory.md R97, R314): the accesses of Fetch and MemoryAccess answer
the view, and no other stage touches the storage. -/

/-- What holds of the storage inside a cycle that has not raised. -/
structure CoherentInside (s : State) : Prop where
  admitted : s.cfg.admitted = true
  sound : s.storage.Sound s.cfg
  coherent : s.storage.Coherent s.cfg

theorem access_keepsCoherent {stage : Stage} {s s' : State} {v d a : Word} {n t : Nat} {rd : Bool} (hs : CoherentInside s)
    (h : access stage s v n rd d = .ok s' a t) : CoherentInside s' := by
  rcases access_cases h with ⟨k, -, he⟩ | ⟨p, st, buf, hit, time, -, hreq, he⟩ | ⟨p, st, l, b, k, -, -, he⟩
  · cases he
  · injection he with he
    have hcarries : Req.Carries ⟨p, n, rd, if rd then [] else bytesOf n d, false⟩ := fun hr => by simp only at hr; simp [hr]
    have hst := handleTop_sound hcarries hs.sound
    rw [hreq] at hst
    rw [he]
    exact ⟨hs.admitted, hst, (handleTop_answers hs.admitted hcarries hs.sound hs.coherent hreq).coherent⟩
  · cases he

theorem not_raised {stage : Stage} {s s' : State} {v d : Word} {n : Nat} {rd : Bool} (h : access stage s v n rd d = .raised s') :
    s'.status.isFatal = true := by
  obtain ⟨k, st, rfl, -⟩ := access_raised h
  rfl

theorem CoherentInside.fetch {u : State} (h : CoherentInside u) (hf : (fetchStage u).status.isFatal = false) :
    CoherentInside (fetchStage u) := by
  rcases fetchStage_cases u with ⟨-, he⟩ | ⟨-, s', hacc, he⟩ | ⟨-, s', v, t, hacc, he⟩
  · rw [he]
    exact { h with }
  · rw [he, not_raised hacc] at hf
    cases hf
  · rw [he]
    exact { access_keepsCoherent h hacc with }

theorem CoherentInside.decode {u v : State} (h : CoherentInside u) (hstep : DecodeStep u v) : CoherentInside v := by
  cases hstep <;> exact { h with }

theorem CoherentInside.execute {u v : State} (h : CoherentInside u) (hstep : ExecuteStep u v) : CoherentInside v := by
  cases hstep <;> exact { h with }

/-- MemoryAccess's own part, which makes at most one access (R426). -/
theorem CoherentInside.memoryPart {u : State} {x : MSlot} (h : CoherentInside u) (m : Meaning) (hm : u.mCur.slot = some x)
    (hf : (memoryPart m (atPhase .memory u)).status.isFatal = false) : CoherentInside (memoryPart m (atPhase .memory u)) := by
  have h' : CoherentInside (atPhase .memory u) := { h with }
  simp only [Machine.memoryPart, atPhase_mCur, hm] at hf ⊢
  generalize hout : memoryOp _ _ _ _ = out at hf ⊢
  rcases memoryOp_cases hout with ⟨-, rfl⟩ | ⟨n, signed, s', v, t, -, hacc, rfl⟩ | ⟨n, signed, s', -, hacc, rfl⟩ |
    ⟨n, s', v, t, -, hacc, rfl⟩ | ⟨n, s', -, hacc, rfl⟩
  · exact { h' with }
  · exact { access_keepsCoherent h' hacc with }
  · exact absurd (hf.symm.trans (not_raised hacc)) (by decide)
  · exact { access_keepsCoherent h' hacc with }
  · exact absurd (hf.symm.trans (not_raised hacc)) (by decide)

theorem CoherentInside.afterMemory {u : State} (h : CoherentInside u) (i : Instr) : CoherentInside (afterMemory i u) := by
  unfold Machine.afterMemory
  split
  · exact ⟨by simp [h.admitted], by simp [h.sound], by simp [h.coherent]⟩
  · exact h

theorem CoherentInside.memory {u v : State} (h : CoherentInside u) (he : memoryStage u = .next v) (hf : v.status.isFatal = false) :
    CoherentInside v := by
  rcases memoryStage_cases u with ⟨-, heq⟩ | ⟨x, hm, heq⟩ <;> rw [heq] at he
  · injection he with he
    exact he ▸ { h with }
  · obtain ⟨w, hw, hend⟩ := thenStage_next he
    injection hw with hw
    rcases hend with ⟨hfatal, rfl⟩ | ⟨hf', hv⟩
    · exact absurd (hfatal.symm.trans hf) (by decide)
    · injection hv with hv
      rw [← hw] at hf' hv
      exact hv ▸ (h.memoryPart _ hm hf').afterMemory _

theorem CoherentInside.writeBack {u v : State} (h : CoherentInside u) (hstep : WriteBackStep u v) : CoherentInside v := by
  cases hstep <;> exact { h with }

/-- A step that has not raised did not end at a stage that raised. -/
theorem goes_on_of_not_fatal {t u : State} {p : Prop} (ht : t.status.isFatal = false)
    (h : (u.status.isFatal = true ∧ t = { u with sig := Signals.idle }) ∨ p) : p := by
  rcases h with ⟨hf, rfl⟩ | hp
  · exact absurd (ht.symm.trans hf) (by decide)
  · exact hp

/-- Settles O16: the five stages in turn, and the update, which leaves the storage alone. -/
theorem stepKeepsCoherent : Obligations.StepKeepsCoherent := by
  intro s t hs hco h ht
  have hstart : CoherentInside { s with sig := Signals.idle } := ⟨(step_next h).1.admitted, hs.storage, hco⟩
  obtain ⟨s1, rfl, hend⟩ := cycle_next (step_next h).2
  obtain ⟨f1, s2, h2, hend⟩ := goes_on_of_not_fatal ht hend
  obtain ⟨f2, s3, h3, hend⟩ := goes_on_of_not_fatal ht hend
  obtain ⟨f3, s4, h4, hend⟩ := goes_on_of_not_fatal ht hend
  obtain ⟨f4, s5, h5, hend⟩ := goes_on_of_not_fatal ht hend
  obtain ⟨f5, rfl⟩ := goes_on_of_not_fatal ht hend
  have c3 := ((hstart.fetch f1).decode (decodeStage_step h2)).execute (executeStage_step f2 h3)
  have c5 := (c3.memory h4 f4).writeBack (writeBackStage_step f4 h5)
  exact c5.coherent

end Sys2Proof.Machine

namespace Sys2Proof.Machine

/-! PROOF. Prefetches are not counted (20_memory.md R87, R88). -/

/-- The counts of a level that a prefetch must leave. -/
def Level.stats (lv : Level) : Nat × Nat × Nat := (lv.accesses, lv.hits, lv.misses)

/-- The counts after a request that hit or missed: a demand request counts once, a prefetch never (R87). -/
def Level.statsAfter (lv : Level) (isPrefetch hit : Bool) : Nat × Nat × Nat :=
  if isPrefetch then lv.stats
  else (lv.accesses + 1, lv.hits + (if hit then 1 else 0), lv.misses + (if hit then 0 else 1))

/-- A layer at which prefetches, and what they cause below, are not counted. -/
def KeepsStats (f : Req → Storage → Reply) : Prop :=
  ∀ r st st' buf hit t, r.isPrefetch = true → f r st = .ok st' buf hit t → st'.levels.map Level.stats = st.levels.map Level.stats

@[simp] theorem stats_setLine (lv : Level) (s w : Nat) (l : CacheLine) : (lv.setLine s w l).stats = lv.stats := rfl

@[simp] theorem stats_evicted (lv : Level) (old : CacheLine) : (lv.evicted old).stats = lv.stats := by
  rcases evicted_cases lv old with he | he <;> rw [he]
  rfl

theorem stats_countHit (lv : Level) (p : Bool) : ((lv.arrive p).countHit p).stats = lv.statsAfter p true := by cases p <;> rfl

theorem stats_countMiss (lv : Level) (p : Bool) : ((lv.arrive p).countMiss p).stats = lv.statsAfter p false := by cases p <;> rfl

section Stats

variable {c : LevelCfg} {lower : Req → Storage → Reply} {r : Req} {lv : Level} {below st : Storage} {buf : List Byte} {hit : Bool}
  {t : Nat}

theorem Forwards.keepsStats {below' : Storage} (h : Forwards c lower r below below') (hl : KeepsStats lower) (hp : r.isPrefetch = true) :
    below'.levels.map Level.stats = below.levels.map Level.stats := by
  cases h with
  | forwarded _ _ _ _ _ _ hlow => exact hl _ _ _ _ _ _ hp hlow
  | kept => rfl

theorem Evicts.keepsStats {old : CacheLine} {below₁ : Storage} {twb : Nat} (h : Evicts c lower r old below below₁ twb)
    (hl : KeepsStats lower) (hp : r.isPrefetch = true) : below₁.levels.map Level.stats = below.levels.map Level.stats := by
  cases h with
  | written _ _ _ _ _ _ hlow => exact hl (evictReq c r old) _ _ _ _ _ hp hlow
  | kept => rfl

/-- What a request that is served counts at its level, and a prefetch at the levels below. -/
theorem serve_stats {i : Nat} (he : serve i c lower r lv below = .ok st buf hit t) :
    ∃ lv' below', st = push lv' below' ∧ lv'.stats = lv.statsAfter r.isPrefetch hit ∧
      (KeepsStats lower → r.isPrefetch = true → below'.levels.map Level.stats = below.levels.map Level.stats) := by
  obtain ⟨-, hserves⟩ := serve_ok he
  cases hserves with
  | hit w hfound h =>
    obtain ⟨below', hfwd, rfl, -, rfl, -⟩ := hitPath_ok h
    exact ⟨_, _, rfl, stats_countHit lv _, hfwd.keepsStats⟩
  | forward hmiss hw hwa h =>
    obtain ⟨below', b, h', hlow, rfl, -, rfl⟩ := forwardMiss_ok h
    exact ⟨_, _, rfl, stats_countMiss lv _, fun hl hp => hl _ _ _ _ _ _ hp hlow⟩
  | allocate hmiss hra h =>
    obtain ⟨below₁, twb, hevict, h⟩ := allocate_ok h
    obtain ⟨below₂, fill, h', tf, below', hlow, hfwd, rfl, -, rfl, -⟩ := fillPath_ok h
    refine ⟨_, _, rfl, ?_, fun hl hp => ?_⟩
    · rw [stats_setLine, stats_evicted, stats_countMiss]
    · rw [hfwd.keepsStats hl hp, hl (fillReq c r) _ _ _ _ _ hp hlow, hevict.keepsStats hl hp]

theorem memHandle_keepsStats (cfg : Config) : KeepsStats (memHandle cfg) := by
  intro r st st' buf hit t _ he
  unfold memHandle at he
  split_ifs at he <;> injection he with he <;> subst he <;> rfl

theorem atLevel_keepsStats (cfg : Config) (i : Nat) (hl : KeepsStats lower) : KeepsStats (atLevel cfg i c lower) := by
  intro r st st' buf hit t hp he
  unfold atLevel at he
  split at he
  · exact memHandle_keepsStats cfg r st st' buf hit t hp he
  · next lv rest hlevels =>
    obtain ⟨lv', below', rfl, hstats, hbelow⟩ := serve_stats he
    rw [hlevels, push_levels, List.map_cons, List.map_cons, hstats, hbelow hl hp, hp]
    rfl

theorem prefetchLoop_keepsStats {cfg : Config} {self : Req → Storage → Reply} (hs : KeepsStats self) (base n k : Nat) {st st' : Storage}
    (he : prefetchLoop cfg c self base n k st = .ok st' buf hit t) : st'.levels.map Level.stats = st.levels.map Level.stats := by
  induction n generalizing k st with
  | zero =>
    injection he with he
    rw [he]
  | succ n ih =>
    simp only [prefetchLoop] at he
    split at he
    · injection he with he
      rw [he]
    · split at he
      · next hself => exact (ih (k + 1) he).trans (hs _ _ _ _ _ _ rfl hself)
      · cases he

end Stats

/-- Prefetches are not counted at any layer of the chain. -/
theorem handle_keepsStats (cfg : Config) (cs : List LevelCfg) (i : Nat) : KeepsStats (handle cfg i cs) := by
  induction cs generalizing i with
  | nil => exact memHandle_keepsStats cfg
  | cons c cs ih =>
    intro r st st' buf hit t hp he
    rw [handle_cons] at he
    obtain ⟨st₁, hself, ⟨-, rfl⟩ | ⟨hno, -⟩⟩ := withPrefetch_ok he
    · exact atLevel_keepsStats cfg i (ih (i + 1)) _ _ _ _ _ _ hp hself
    · exact absurd (hp.symm.trans hno) (by decide)

/-- A demand request counts once at its level; the prefetches that follow it do not count. -/
theorem handle_counts {cfg : Config} {c : LevelCfg} {cs : List LevelCfg} {i : Nat} {r : Req} {lv : Level} {below st' : Storage}
    {buf : List Byte} {hit : Bool} {t : Nat} (hp : r.isPrefetch = false)
    (he : handle cfg i (c :: cs) r (push lv below) = .ok st' buf hit t) :
    (st'.levels.map Level.stats).head? = some (lv.statsAfter false hit) := by
  rw [handle_cons] at he
  obtain ⟨st₁, hself, ⟨hyes, -⟩ | ⟨-, b, h, x, hloop⟩⟩ := withPrefetch_ok he
  · exact absurd (hp.symm.trans hyes) (by decide)
  · rw [prefetchLoop_keepsStats (atLevel_keepsStats cfg i (handle_keepsStats cfg cs (i + 1))) _ _ _ hloop]
    obtain ⟨lv', below', rfl, hstats, -⟩ := serve_stats hself
    rw [← hp, ← hstats]
    rfl

/-- Settles O58: every request a prefetch causes is a prefetch; a demand request counts on arrival, before its prefetches. -/
theorem prefetchesAreNotCounted : Obligations.PrefetchesAreNotCounted := by
  intro cfg st st' r buf hit time hst he stats
  refine ⟨fun hp => handle_keepsStats cfg cfg.levels 1 r st st' buf hit time hp he, fun hp hne => ?_⟩
  obtain ⟨c, cs, hlevels⟩ := List.exists_cons_of_ne_nil hne
  have hst : st.SoundFrom cfg (c :: cs) := by rw [← hlevels]; exact hst
  obtain ⟨lv, below, rfl, -, -⟩ := soundFrom_cons hst
  rw [handleTop, hlevels] at he
  exact handle_counts hp he

end Sys2Proof.Machine

namespace Sys2Proof.Machine

/-! PROOF. A request inside one line and inside memory is served (20_memory.md R71, R85, R86, R89): every request it makes of the layer
below is inside a line and memory too. -/

/-- The reply of a request that does not raise. -/
def Reply.Served (rep : Reply) : Prop := ∃ st buf hit t, rep = .ok st buf hit t

/-- `n` bytes at `a` lie in one line of the top layer of a chain, as in `Config.inLine`. -/
def FitsTop (cs : List LevelCfg) (a n : Nat) : Prop := ∀ c ∈ cs.head?, c.off a + n ≤ c.lineSize

/-- A layer that serves every request inside one of its lines and inside memory. -/
def ServesInside (cfg : Config) (cs : List LevelCfg) (f : Req → Storage → Reply) : Prop :=
  ∀ r st, r.Carries → st.SoundFrom cfg cs → st.CoherentFrom cfg cs → 0 < r.bytes → FitsTop cs r.addr r.bytes →
    r.addr + r.bytes ≤ cfg.physMemSize → (f r st).Served

/-! ### Lines within lines (R7) -/

/-- What a chain must be for its own requests to be inside lines and memory: lines within the lines below, and within memory, and no
prefetch past it. -/
inductive Nested (cfg : Config) : List LevelCfg → Prop
  | nil : Nested cfg []
  | cons {c : LevelCfg} {cs : List LevelCfg} (hc : Positive c) (hdvd : c.lineSize ∣ cfg.physMemSize)
      (hbelow : ∀ d ∈ cs.head?, c.lineSize ∣ d.lineSize) (hsafe : cfg.prefetchOob = .skip ∨ c.prefetch ≤ 1)
      (hcs : Nested cfg cs) : Nested cfg (c :: cs)

theorem dvd_of_isPow2 {m n : Nat} (hm : isPow2 m = true) (hn : isPow2 n = true) (h : m ≤ n) : m ∣ n := by
  rw [eq_of_beq hm, eq_of_beq hn] at h ⊢
  exact pow_dvd_pow 2 ((Nat.pow_le_pow_iff_right (by decide)).mp h)

theorem isPow2_lineSize {c : LevelCfg} (h : c.admitted = true) : isPow2 c.lineSize = true := by
  simp only [LevelCfg.admitted, Bool.and_eq_true] at h
  obtain ⟨⟨⟨-, hline⟩, -⟩, -⟩ := h
  exact hline

/-- The levels of an admitted configuration are such a chain if their lines divide memory and no prefetch can raise. -/
theorem nested_of_levels {cfg : Config} (hsafe : cfg.prefetchSafe) : ∀ cs : List LevelCfg,
    (∀ c ∈ cs, c ∈ cfg.levels ∧ c.admitted = true ∧ c.lineSize ∣ cfg.physMemSize) → linesGrow cs = true → Nested cfg cs
  | [], _, _ => .nil
  | c :: cs, hcs, hgrow => by
    obtain ⟨hmem, hadmitted, hdvd⟩ := hcs c (by simp)
    have hsafe' : cfg.prefetchOob = .skip ∨ c.prefetch ≤ 1 := hsafe.imp_right fun h => h c hmem
    have hrest := fun d hd => hcs d (List.mem_cons_of_mem c hd)
    cases cs with
    | nil => exact .cons (positive_of_admitted hadmitted) hdvd (by simp) hsafe' .nil
    | cons d ds =>
      simp only [linesGrow, Bool.and_eq_true, decide_eq_true_eq] at hgrow
      refine .cons (positive_of_admitted hadmitted) hdvd ?_ hsafe' (nested_of_levels hsafe (d :: ds) hrest hgrow.2)
      rintro _ ⟨⟩
      obtain ⟨-, hadmitted', -⟩ := hrest d (by simp)
      exact dvd_of_isPow2 (isPow2_lineSize hadmitted) (isPow2_lineSize hadmitted') hgrow.1

theorem nested_of_config {cfg : Config} (h : cfg.admitted = true) (hdvd : cfg.linesDivide) (hsafe : cfg.prefetchSafe) :
    Nested cfg cfg.levels := by
  simp only [Config.admitted, Bool.and_eq_true, List.all_eq_true] at h
  obtain ⟨⟨⟨⟨⟨⟨⟨hlevels, hgrow⟩, -⟩, -⟩, -⟩, -⟩, -⟩, -⟩ := h
  exact nested_of_levels hsafe _ (fun c hc => ⟨hc, hlevels c hc, hdvd c hc⟩) hgrow

section Address

variable {cfg : Config} {c d : LevelCfg} {cs : List LevelCfg} {a n : Nat}

/-- What fits a line fits the longer line that it is part of. -/
theorem off_add_le_of_dvd (hd : 0 < d.lineSize) (hdvd : c.lineSize ∣ d.lineSize) (h : c.off a + n ≤ c.lineSize) :
    d.off a + n ≤ d.lineSize := by
  obtain ⟨k, hk⟩ := hdvd
  have hkpos : 0 < k := Nat.pos_of_ne_zero fun h0 => by rw [h0, Nat.mul_zero] at hk; omega
  have hlt : a / c.lineSize % k + 1 ≤ k := Nat.mod_lt _ hkpos
  have hle := Nat.mul_le_mul_left c.lineSize hlt
  rw [LevelCfg.off, hk, Nat.mod_mul]
  rw [LevelCfg.off] at h
  rw [Nat.mul_add, Nat.mul_one] at hle
  omega

theorem fitsTop_below (hcs : Nested cfg (c :: cs)) (h : c.off a + n ≤ c.lineSize) : FitsTop cs a n := by
  cases hcs with
  | cons hc hdvd hbelow hsafe hcs =>
    rintro d hd
    cases hcs with
    | nil => cases hd
    | cons hd' =>
      cases hd
      exact off_add_le_of_dvd hd'.line (hbelow _ rfl) h

/-- A line that starts inside memory ends inside it. -/
theorem line_inMemory (hdvd : c.lineSize ∣ cfg.physMemSize) (hbase : c.lineSize ∣ a) (h : a < cfg.physMemSize) :
    a + c.lineSize ≤ cfg.physMemSize := by
  obtain ⟨m, hm⟩ := hdvd
  obtain ⟨q, rfl⟩ := hbase
  rw [hm] at h ⊢
  have hq : q + 1 ≤ m := Nat.lt_of_mul_lt_mul_left h
  simpa [Nat.mul_add] using Nat.mul_le_mul_left c.lineSize hq

theorem dvd_base (c : LevelCfg) (a : Nat) : c.lineSize ∣ c.base a := Nat.dvd_sub_mod a

theorem line_fits (h : c.lineSize ∣ a) : c.off a + c.lineSize ≤ c.lineSize := by
  rw [LevelCfg.off, Nat.mod_eq_zero_of_dvd h, Nat.zero_add]

end Address

/-! ### The paths of a level -/

section Level

variable {cfg : Config} {c : LevelCfg} {cs : List LevelCfg} {lower : Req → Storage → Reply} {r : Req} {lv : Level}
  {below : Storage}

theorem writeLine_served {w : Nat} {line : CacheLine} {hit : Bool} {t : Nat} (hw : r.isRead = false)
    (h : (lower r below).Served) : (writeLine c lower r lv below w line hit t).Served := by
  have hreq : { r with isRead := false } = r := by rw [← hw]
  obtain ⟨st, buf, hit', t', hlow⟩ := h
  unfold writeLine
  dsimp only
  split
  · rw [hreq, hlow]
    exact ⟨_, _, _, _, rfl⟩
  · exact ⟨_, _, _, _, rfl⟩

theorem hitPath_served {w : Nat} (h : r.isRead = false → (lower r below).Served) : (hitPath c lower r lv below w).Served := by
  unfold hitPath
  dsimp only
  split
  · exact ⟨_, _, _, _, rfl⟩
  · next hw =>
    have hw : r.isRead = false := by simpa using hw
    exact writeLine_served hw (h hw)

theorem forwardMiss_served (h : (lower r below).Served) : (forwardMiss lower r lv below).Served := by
  obtain ⟨st, buf, hit, t, hlow⟩ := h
  rw [forwardMiss, hlow]
  exact ⟨_, _, _, _, rfl⟩

theorem fillPath_served {w twb : Nat} {below₂ : Storage} {fill : List Byte} {hit : Bool} {t : Nat}
    (hfill : lower (fillReq c r) below = .ok below₂ fill hit t) (h : r.isRead = false → (lower r below₂).Served) :
    (fillPath c lower r lv below w twb).Served := by
  unfold fillReq at hfill
  unfold fillPath
  rw [hfill]
  dsimp only
  split
  · exact ⟨_, _, _, _, rfl⟩
  · next hw =>
    have hw : r.isRead = false := by simpa using hw
    exact writeLine_served hw (h hw)

theorem writeback_served {old : CacheLine} (h : old.valid = true → old.dirty = true → (lower (evictReq c r old) below).Served) :
    (writeback c lower r old below).Served := by
  unfold writeback
  split
  · next hdirty =>
    simp only [Bool.and_eq_true] at hdirty
    exact h hdirty.1 hdirty.2
  · exact ⟨_, _, _, _, rfl⟩

theorem allocate_of_writeback {below₁ : Storage} {b : List Byte} {h : Bool} {twb : Nat}
    (hwb : writeback c lower r (victimLine c lv r.addr) below = .ok below₁ b h twb) :
    allocate c lower r lv below =
      fillPath c lower r (lv.evicted (victimLine c lv r.addr)) below₁ (victimOf c lv r.addr) twb := by
  unfold victimLine victimOf at hwb
  rw [allocate, hwb]
  rfl

/-- The writeback of a line is a request inside a line and inside memory. -/
theorem evict_served (hok : ServesInside cfg cs lower) (hcs : Nested cfg (c :: cs)) (hc : Positive c) {w : Nat} (hlv : lv.Sound c)
    (hag : lv.Agrees cfg c (below.viewFrom cs)) (hst : below.SoundFrom cfg cs) (hco : below.CoherentFrom cfg cs)
    (hv : (lv.line (c.set r.addr) w).valid = true) : (lower (evictReq c r (lv.line (c.set r.addr) w)) below).Served := by
  have hdvd : c.lineSize ∣ c.lineAddr (c.set r.addr) (lv.line (c.set r.addr) w).tag := Nat.dvd_mul_left _ _
  -- the victim's own line address is held by the victim
  obtain ⟨hset, htag⟩ := (inLine_iff hc (set_lt hc r.addr) (t := (lv.line (c.set r.addr) w).tag)).mpr
    ⟨Nat.le_refl _, Nat.lt_add_of_pos_right hc.line⟩
  have hin := hag.inMemory _ _ (held_of_line_valid hc hlv hv hset htag.symm)
  rw [base_eq_lineAddr, hset, htag] at hin
  exact hok _ _ (carries_evictReq hlv hv) hst hco hc.line (fitsTop_below hcs (line_fits hdvd)) hin

theorem allocate_served (hs : KeepsSound cfg cs lower) (hl : KeepsView cfg cs lower) (hok : ServesInside cfg cs lower)
    (hcs : Nested cfg (c :: cs)) (hc : Positive c) (hdvd : c.lineSize ∣ cfg.physMemSize) (hlv : lv.Sound c)
    (hag : lv.Agrees cfg c (below.viewFrom cs)) (hr : r.Carries) (hst : below.SoundFrom cfg cs) (hco : below.CoherentFrom cfg cs)
    (hpos : 0 < r.bytes) (hfits : c.off r.addr + r.bytes ≤ c.lineSize) (hin : r.addr + r.bytes ≤ cfg.physMemSize) :
    (allocate c lower r lv below).Served := by
  obtain ⟨below₁, b, h, twb, hwb⟩ := writeback_served (r := r) fun hv _ =>
    evict_served (w := victimOf c lv r.addr) hok hcs hc hlv hag hst hco hv
  have hev := (writeback_ok hwb).evicted hs hl hc hlv hag hst hco
  have hbase : c.base r.addr < cfg.physMemSize := by have := base_add_off c r.addr; omega
  obtain ⟨below₂, fill, h₂, tf, hfill⟩ := hok (fillReq c r) below₁ (carries_fillReq c r) hev.sound hev.coherent hc.line
    (fitsTop_below hcs (line_fits (dvd_base c _))) (line_inMemory hdvd (dvd_base c _) hbase)
  have hco₂ := (hl _ _ _ _ _ _ (carries_fillReq c r) hev.sound hev.coherent hfill).coherent
  have hst₂ := (hs.ok (carries_fillReq c r) hev.sound hfill).1
  rw [allocate_of_writeback hwb]
  exact fillPath_served hfill fun _ => hok r below₂ hr hst₂ hco₂ hpos (fitsTop_below hcs hfits) hin

theorem serve_served (hs : KeepsSound cfg cs lower) (hl : KeepsView cfg cs lower) (hok : ServesInside cfg cs lower)
    (hcs : Nested cfg (c :: cs)) (hc : Positive c) (hdvd : c.lineSize ∣ cfg.physMemSize) (i : Nat) (hlv : lv.Sound c)
    (hag : lv.Agrees cfg c (below.viewFrom cs)) (hr : r.Carries) (hst : below.SoundFrom cfg cs) (hco : below.CoherentFrom cfg cs)
    (hpos : 0 < r.bytes) (hfits : c.off r.addr + r.bytes ≤ c.lineSize) (hin : r.addr + r.bytes ≤ cfg.physMemSize) :
    (serve i c lower r lv below).Served := by
  have hlow := hok r below hr hst hco hpos (fitsTop_below hcs hfits) hin
  cases hfound : findHit (lv.ways (c.set r.addr)) (c.tag r.addr) with
  | some w =>
    rw [serve_hit hfits hfound]
    exact hitPath_served fun _ => hlow
  | none =>
    by_cases hra : r.isRead = true ∨ c.wa = true
    · rw [serve_allocate hfits hfound hra]
      exact allocate_served hs hl hok hcs hc hdvd (hlv.arrivedMiss _).toSound (hag.congr rfl) hr hst hco hpos hfits hin
    · obtain ⟨hw, hwa⟩ : r.isRead = false ∧ c.wa = false := by simpa using hra
      rw [serve_forward hfits hfound hw hwa]
      exact forwardMiss_served hlow

/-! ### Prefetches -/

theorem prefetchLoop_served {self : Req → Storage → Reply} (hs : KeepsSound cfg (c :: cs) self) (hl : KeepsView cfg (c :: cs) self)
    (hok : ServesInside cfg (c :: cs) self) (hc : Positive c) {base n : Nat} (k : Nat) {st : Storage}
    (hsafe : cfg.prefetchOob = .skip ∨ n = 0) (hbase : c.lineSize ∣ base) (hst : st.SoundFrom cfg (c :: cs))
    (hco : st.CoherentFrom cfg (c :: cs)) : (prefetchLoop cfg c self base n k st).Served := by
  induction n generalizing k st with
  | zero => exact ⟨_, _, _, _, rfl⟩
  | succ n ih =>
    have hskip : cfg.prefetchOob = .skip := hsafe.resolve_right (by simp)
    simp only [prefetchLoop, hskip, true_and]
    split
    · exact ⟨_, _, _, _, rfl⟩
    · next hin =>
      have hfits : FitsTop (c :: cs) (base + k * c.lineSize) c.lineSize := by
        rintro _ ⟨⟩
        exact line_fits (Nat.dvd_add hbase (Nat.dvd_mul_left _ _))
      obtain ⟨st', b, h, t, hself⟩ := hok ⟨base + k * c.lineSize, c.lineSize, true, [], true⟩ st (fun h => by cases h) hst hco
        hc.line hfits (Nat.le_of_not_lt hin)
      have hco' := (hl _ _ _ _ _ _ (fun h => by cases h) hst hco hself).coherent
      have hst' := (hs.ok (fun h => by cases h) hst hself).1
      rw [hself]
      exact ih (k + 1) (.inl hskip) hst' hco'

theorem withPrefetch_served {self : Req → Storage → Reply} (hs : KeepsSound cfg (c :: cs) self) (hl : KeepsView cfg (c :: cs) self)
    (hok : ServesInside cfg (c :: cs) self) (hc : Positive c) (hsafe : cfg.prefetchOob = .skip ∨ c.prefetch ≤ 1) :
    ServesInside cfg (c :: cs) fun r st => withPrefetch cfg c self r (self r st) := by
  intro r st hr hst hco hpos hfits hin
  obtain ⟨st₁, buf, hit, t, hself⟩ := hok r st hr hst hco hpos hfits hin
  dsimp only
  rw [hself, withPrefetch]
  split
  · exact ⟨_, _, _, _, rfl⟩
  · have hco₁ := (hl _ _ _ _ _ _ hr hst hco hself).coherent
    obtain ⟨st₂, b, h, x, hloop⟩ := prefetchLoop_served hs hl hok hc (base := c.base r.addr) (n := c.prefetch - 1) 1
      (hsafe.imp_right Nat.sub_eq_zero_of_le) (dvd_base c _) (hs.ok hr hst hself).1 hco₁
    rw [hloop]
    exact ⟨_, _, _, _, rfl⟩

end Level

/-! ### The chain -/

theorem memHandle_servesInside (cfg : Config) : ServesInside cfg [] (memHandle cfg) := by
  intro r st _ _ _ _ _ hin
  cases hr : r.isRead with
  | true => rw [memHandle_read hin hr]; exact ⟨_, _, _, _, rfl⟩
  | false => rw [memHandle_write hin hr]; exact ⟨_, _, _, _, rfl⟩

theorem Nested.positive {cfg : Config} {cs : List LevelCfg} (h : Nested cfg cs) : ∀ c ∈ cs, Positive c := by
  induction h with
  | nil => simp
  | cons hc _ _ _ _ ih => exact List.forall_mem_cons.mpr ⟨hc, ih⟩

theorem handle_servesInside {cfg : Config} {cs : List LevelCfg} (hcs : Nested cfg cs) (i : Nat) :
    ServesInside cfg cs (handle cfg i cs) := by
  induction hcs generalizing i with
  | nil => exact memHandle_servesInside cfg
  | @cons c cs hc hdvd hbelow hsafe hcs ih =>
    have hs := handle_keepsSound cfg cs (i + 1)
    have hl := handle_keepsView cfg cs hcs.positive (i + 1)
    refine withPrefetch_served (atLevel_keepsSound i hs) (atLevel_keepsView i hc hs hl) ?_ hc hsafe
    intro r st hr hst hco hpos hfits hin
    obtain ⟨lv, below, rfl, hlv, hbelow'⟩ := soundFrom_cons hst
    obtain ⟨hag, hco'⟩ := coherentFrom_push.mp hco
    exact serve_served hs hl (ih (i + 1)) (.cons hc hdvd hbelow hsafe hcs) hc hdvd i hlv hag hr hbelow' hco' hpos (hfits c rfl) hin

/-- Settles O55: by induction along the chain, every layer serves the requests inside its lines and memory. -/
theorem requestsInsideMemorySucceed : Obligations.RequestsInsideMemorySucceed := by
  intro cfg st r hcfg hst hco hdvd hsafe hpos hr hfits hin
  exact handle_servesInside (nested_of_config hcfg hdvd hsafe) 1 r st hr hst hco hpos hfits hin

end Sys2Proof.Machine

namespace Sys2Proof.Machine

/-! PROOF. Translation (20_memory.md R62 to R64), page allocation (R65) and the order of bytes (R91). -/

/-! ### Translation -/

theorem misaligned_iff {cfg : Config} {v : Word} {n : Nat} (hn : n = 1 ∨ n = 2 ∨ n = 4 ∨ n = 8) :
    misaligned cfg v n = true ↔ v.toNat % n ≠ 0 ∧ (n = 8 → cfg.misaligned8 = .fault) := by
  rcases hn with rfl | rfl | rfl | rfl
  · simp [misaligned, Nat.mod_one]
  · simp [misaligned]
  · simp [misaligned]
  · simp [misaligned, and_comm]

/-- The address that a page in the 64-bit space gives (R64). -/
theorem physAddr_eq {cfg : Config} {e : PageEntry} (v : Word) (h : e.ppn.toNat * cfg.pageSize + cfg.pageSize ≤ 2 ^ 64)
    (hpos : 0 < cfg.pageSize) : physAddr cfg e v = e.ppn.toNat * cfg.pageSize + v.toNat % cfg.pageSize := by
  have hoff := Nat.mod_lt v.toNat hpos
  exact Nat.mod_eq_of_lt (by omega)

/-- Settles O49: the branches of `translate`. -/
theorem translationRule : Obligations.TranslationRule := by
  intro s v n hn bad vpn
  have hbad : misaligned s.cfg v n = true ↔ bad := misaligned_iff hn
  refine ⟨fun h => ?_, fun h hno => ?_, fun h e he hv hfits hpos => ?_⟩
  · rw [translate, if_pos (hbad.mpr h)]
  · rw [translate, if_neg (mt hbad.mp h)]
    cases he : lookupPage s.pt vpn with
    | none => rfl
    | some e => simp only [hno e he, Bool.false_eq_true, if_false]
  · exact translate_ok_iff.mpr ⟨Bool.eq_false_iff.mpr (mt hbad.mp h), e, he, hv, (physAddr_eq v hfits hpos).symm⟩

/-! ### Page allocation -/

theorem lookupPage_insertPage (pt : List (Nat × PageEntry)) (vpn : Nat) (e : PageEntry) (v : Nat) :
    lookupPage (insertPage pt vpn e) v = if v = vpn then some e else lookupPage pt v := by
  induction pt with
  | nil => simp [insertPage, lookupPage, eq_comm]
  | cons x pt ih =>
    obtain ⟨v', e'⟩ := x
    simp only [insertPage]
    split
    · by_cases hv : v = vpn
      · simp [lookupPage, hv]
      · simp [lookupPage, hv, Ne.symm hv]
    · split
      · next heq =>
        subst heq
        by_cases hv : v = v'
        · simp [lookupPage, hv]
        · simp [lookupPage, hv, Ne.symm hv]
      · next hne =>
        simp only [lookupPage, ih]
        by_cases hv : v' = v
        · rw [if_pos hv, if_pos hv, if_neg (hv ▸ hne)]
        · rw [if_neg hv, if_neg hv]

/-- In a table without an entry for the page, the new entry stands beside the old ones. -/
theorem mem_insertPage {pt : List (Nat × PageEntry)} {vpn : Nat} (h : lookupPage pt vpn = none) (e : PageEntry)
    (x : Nat × PageEntry) : x ∈ insertPage pt vpn e ↔ x = (vpn, e) ∨ x ∈ pt := by
  induction pt with
  | nil => simp [insertPage]
  | cons y pt ih =>
    obtain ⟨v', e'⟩ := y
    simp only [lookupPage] at h
    split_ifs at h with hv
    simp only [insertPage, if_neg hv]
    split
    · simp
    · simp [ih h, or_left_comm]

theorem pairwise_insertPage_fst {pt : List (Nat × PageEntry)} (h : pt.Pairwise fun x y => x.1 < y.1) {vpn : Nat}
    (hno : lookupPage pt vpn = none) (e : PageEntry) : (insertPage pt vpn e).Pairwise fun x y => x.1 < y.1 := by
  induction pt with
  | nil => simp [insertPage]
  | cons y pt ih =>
    obtain ⟨v', e'⟩ := y
    obtain ⟨hlt, hpt⟩ := List.pairwise_cons.mp h
    simp only [lookupPage] at hno
    split_ifs at hno with hv
    simp only [insertPage, if_neg hv]
    split
    · next hlt' =>
      refine List.pairwise_cons.mpr ⟨fun x hx => ?_, h⟩
      rcases List.mem_cons.mp hx with rfl | hx
      · exact hlt'
      · exact Nat.lt_trans hlt' (hlt x hx)
    · refine List.pairwise_cons.mpr ⟨fun x hx => ?_, ih hpt hno⟩
      rcases (mem_insertPage hno e x).mp hx with rfl | hx
      · show v' < vpn
        omega
      · exact hlt x hx

theorem pairwise_insertPage_ppn {pt : List (Nat × PageEntry)} (h : pt.Pairwise fun x y => x.2.ppn ≠ y.2.ppn) {vpn : Nat}
    (hno : lookupPage pt vpn = none) {e : PageEntry} (he : ∀ x ∈ pt, x.2.ppn ≠ e.ppn) :
    (insertPage pt vpn e).Pairwise fun x y => x.2.ppn ≠ y.2.ppn := by
  induction pt with
  | nil => simp [insertPage]
  | cons y pt ih =>
    obtain ⟨hne, hpt⟩ := List.pairwise_cons.mp h
    obtain ⟨v', e'⟩ := y
    obtain ⟨hy, he⟩ := List.forall_mem_cons.mp he
    simp only [lookupPage] at hno
    split_ifs at hno with hv
    simp only [insertPage, if_neg hv]
    split
    · refine List.pairwise_cons.mpr ⟨fun x hx => ?_, h⟩
      rcases List.mem_cons.mp hx with rfl | hx
      · exact hy.symm
      · exact (he x hx).symm
    · refine List.pairwise_cons.mpr ⟨fun x hx => ?_, ih hpt hno he⟩
      rcases (mem_insertPage hno e x).mp hx with rfl | hx
      · exact hy
      · exact hne x hx

/-- A page of a free frame keeps the launch premises (R403). -/
theorem FramesApart.insertPage {cfg : Config} {pt : List (Nat × PageEntry)} {free : List Nat} (h : FramesApart cfg pt free) {vpn f : Nat}
    (hno : lookupPage pt vpn = none) (hf : f ∈ free) (hlt : f < 2 ^ 64) (hnodup : free.Nodup) :
    FramesApart cfg (insertPage pt vpn { ppn := BitVec.ofNat 64 f, valid := true }) (free.erase f) := by
  have hppn : (BitVec.ofNat 64 f).toNat = f := by rw [BitVec.toNat_ofNat, Nat.mod_eq_of_lt hlt]
  obtain ⟨hin, hunused⟩ := (h.free f).mp hf
  have hmem := mem_insertPage hno { ppn := BitVec.ofNat 64 f, valid := true }
  refine ⟨fun x hx => ?_, pairwise_insertPage_ppn h.apart hno fun x hx he => ?_, fun g => ?_⟩
  · rcases (hmem x).mp hx with rfl | hx
    · rw [hppn]
      exact hin
    · exact h.inMemory x hx
  · exact hunused x hx (by rw [he, hppn])
  · rw [hnodup.mem_erase_iff, h.free g]
    simp only [hmem, forall_eq_or_imp, hppn]
    tauto

/-- A draw from a pool that is not empty is one of its frames. -/
theorem getD_mod_mem (f : Nat) (fs : List Nat) (pick : Nat) : (f :: fs).getD (pick % (f :: fs).length) f ∈ f :: fs := by
  have hlt : pick % (f :: fs).length < (f :: fs).length := Nat.mod_lt _ (by simp)
  rw [List.getD_eq_getElem _ _ hlt]
  exact List.getElem_mem hlt

/-- AllocatePage on a pool that is not empty (R65). -/
theorem allocatePage_of_free {s : State} (h : s.free ≠ []) (pick vpn : Nat) :
    ∃ f ∈ s.free, allocatePage pick vpn s =
      { s with free := s.free.erase f, pt := insertPage s.pt vpn { ppn := BitVec.ofNat 64 f, valid := true } } := by
  obtain ⟨f, fs, hfree⟩ := List.exists_cons_of_ne_nil h
  refine ⟨_, hfree ▸ getD_mod_mem f fs pick, ?_⟩
  simp only [allocatePage, hfree]

/-- Settles O11: the frame leaves the pool and becomes the page of `vpn`. -/
theorem allocatePageDrawsAFreeFrame : Obligations.AllocatePageDrawsAFreeFrame := by
  intro pick vpn s
  refine ⟨fun h => by simp only [allocatePage, h], fun h hnodup hlt => ?_⟩
  obtain ⟨f, hf, he⟩ := allocatePage_of_free h pick vpn
  refine ⟨f, hf, ?_⟩
  simp only [he]
  refine ⟨hnodup.not_mem_erase, fun g hg => List.mem_erase_of_ne hg, ?_, fun v hv => ?_, trivial, fun hsorted hno hapart => ?_⟩
  · rw [lookupPage_insertPage, if_pos rfl]
  · rw [lookupPage_insertPage, if_neg hv]
  · exact ⟨pairwise_insertPage_fst hsorted hno _, hapart.insertPage hno hf (hlt f hf) hnodup⟩

/-! ### The order of bytes -/

theorem leNat_lt : ∀ bs : List Byte, leNat bs < 2 ^ (8 * bs.length)
  | [] => by simp [leNat]
  | b :: bs => by
    have hb := b.isLt
    have ih := leNat_lt bs
    rw [leNat, List.length_cons, Nat.mul_succ, Nat.pow_add]
    omega

theorem leNat_append (xs : List Byte) (b : Byte) : leNat (xs ++ [b]) = leNat xs + 2 ^ (8 * xs.length) * b.toNat := by
  induction xs with
  | nil => simp [leNat]
  | cons x xs ih =>
    rw [List.cons_append, leNat, ih, leNat, List.length_cons, Nat.mul_succ, Nat.pow_add]
    ring

/-- The value of up to eight bytes is their little-endian number. -/
theorem toNat_valueOf : ∀ bs : List Byte, bs.length ≤ 8 → (valueOf bs).toNat = leNat bs
  | [], _ => rfl
  | b :: bs, h => by
    have hbs : bs.length < 8 := by simpa using h
    have hlt : leNat bs < 2 ^ 56 :=
      Nat.lt_of_lt_of_le (leNat_lt bs) (Nat.pow_le_pow_right (by decide) (by omega))
    have hb := b.isLt
    rw [valueOf_cons, BitVec.toNat_or, BitVec.toNat_shiftLeft, toNat_valueOf bs (by omega), BitVec.toNat_setWidth, leNat,
      Nat.mod_eq_of_lt (by omega), Nat.shiftLeft_eq, Nat.mod_eq_of_lt (by omega), Nat.or_comm, ← Nat.shiftLeft_eq,
      ← Nat.shiftLeft_add_eq_or_of_lt hb, Nat.shiftLeft_eq]
    omega

/-- The bytes of a value hold its low part. -/
theorem leNat_bytesOf (n : Nat) (v : Word) : leNat (bytesOf n v) = v.toNat % 2 ^ (8 * n) := by
  induction n with
  | zero => simp [bytesOf, leNat, Nat.mod_one]
  | succ n ih =>
    have hsplit : bytesOf (n + 1) v = bytesOf n v ++ [v.extractLsb' (8 * n) 8] := by simp [bytesOf, List.range_succ]
    rw [hsplit, leNat_append, ih, length_bytesOf, Nat.mul_succ, Nat.pow_add, Nat.mod_mul, BitVec.extractLsb'_toNat,
      Nat.shiftRight_eq_div_pow]

theorem toNat_wordOfBytes (b0 b1 b2 b3 : Byte) : (wordOfBytes b0 b1 b2 b3).toNat = leNat [b0, b1, b2, b3] := by
  have h0 := b0.isLt
  have h1 := b1.isLt
  have h2 := b2.isLt
  simp only [wordOfBytes, BitVec.toNat_append, leNat]
  rw [← Nat.shiftLeft_add_eq_or_of_lt h2, ← Nat.shiftLeft_add_eq_or_of_lt h1, ← Nat.shiftLeft_add_eq_or_of_lt h0]
  simp only [Nat.shiftLeft_eq]
  omega

/-- Settles O50: values and words by their numbers. -/
theorem littleEndian : Obligations.LittleEndian := by
  refine ⟨toNat_valueOf, fun n v hn => ⟨length_bytesOf n v, ?_⟩, fun w => ?_, fun b0 b1 b2 b3 => ?_⟩
  · rw [toNat_valueOf _ (by rwa [length_bytesOf]), leNat_bytesOf]
  · apply BitVec.eq_of_toNat_eq
    rw [toNat_wordOfBytes]
    simp only [leNat, BitVec.extractLsb'_toNat, Nat.shiftRight_eq_div_pow]
    have := w.isLt
    omega
  · apply BitVec.eq_of_toNat_eq
    rw [toNat_wordOfBytes, fetchedWord, BitVec.toNat_setWidth, toNat_valueOf _ (by simp)]
    exact Nat.mod_eq_of_lt (leNat_lt [b0, b1, b2, b3])

end Sys2Proof.Machine

namespace Sys2Proof

open Machine

/-! SUPPORT. The decoder and the encoder read and write the same words (30_encoding.md R121 to R134). -/

/-! ### Words from their fields (R122, R130) -/

section Fields

variable {w : InstrWord} {op : BitVec 7} {f3 : BitVec 3}

theorem packR_of_fields {f7 : BitVec 7} (hop : opcodeOf w = op) (hf3 : func3Of w = f3) (hf7 : func7Of w = f7) :
    packR f7 (rs2Of w) (rs1Of w) f3 (rdOf w) op = w := by
  subst hop hf3 hf7; exact packR_fields w

theorem packI_of_fields (hop : opcodeOf w = op) (hf3 : func3Of w = f3) : packI (immIOf w) (rs1Of w) f3 (rdOf w) op = w := by
  subst hop hf3; exact packI_fields w

theorem packS_of_fields (hop : opcodeOf w = op) (hf3 : func3Of w = f3) : packS (immSOf w) (rs2Of w) (rs1Of w) f3 op = w := by
  subst hop hf3; exact packS_fields w

theorem packSB_of_fields (hop : opcodeOf w = op) (hf3 : func3Of w = f3) : packSB (immSBOf w) (rs2Of w) (rs1Of w) f3 op = w := by
  subst hop hf3; exact packSB_fields w

theorem packU_of_fields (hop : opcodeOf w = op) : packU (immUOf w) (rdOf w) op = w := by
  subst hop; exact packU_fields w

theorem packUJ_of_fields (hop : opcodeOf w = op) : packUJ (immUJOf w) (rdOf w) op = w := by
  subst hop; exact packUJ_fields w

theorem func6Of_append_shamt6Of (w : InstrWord) : func6Of w ++ shamt6Of w = immIOf w := by
  ext j hj
  simp only [immIOf, func6Of, shamt6Of, BitVec.getElem_append, BitVec.getElem_extractLsb']
  grind

theorem func7Of_append_shamt5Of (w : InstrWord) : func7Of w ++ shamt5Of w = immIOf w := by
  ext j hj
  simp only [immIOf, func7Of, shamt5Of, BitVec.getElem_append, BitVec.getElem_extractLsb']
  grind

theorem packI_shamt6_of_fields {f6 : BitVec 6} (hop : opcodeOf w = op) (hf3 : func3Of w = f3) (hf6 : func6Of w = f6) :
    packI (f6 ++ shamt6Of w) (rs1Of w) f3 (rdOf w) op = w := by
  rw [← hf6, func6Of_append_shamt6Of, packI_of_fields hop hf3]

theorem packI_shamt5_of_fields {f7 : BitVec 7} (hop : opcodeOf w = op) (hf3 : func3Of w = f3) (hf7 : func7Of w = f7) :
    packI (f7 ++ shamt5Of w) (rs1Of w) f3 (rdOf w) op = w := by
  rw [← hf7, func7Of_append_shamt5Of, packI_of_fields hop hf3]

/-- In the form in which `Instr.wf` asks it (R127). -/
theorem immSBOf_even (w : InstrWord) : (!(immSBOf w).getLsbD 0) = true := by
  rw [getLsbD_immSBOf]; rfl

/-- In the form in which `Instr.wf` asks it (R129). -/
theorem immUJOf_even (w : InstrWord) : (!(immUJOf w).getLsbD 0) = true := by
  rw [getLsbD_immUJOf]; rfl

theorem getLsbD_shamt6Of_five (w : InstrWord) : (shamt6Of w).getLsbD 5 = w.getLsbD 25 := by
  rw [shamt6Of, BitVec.getLsbD_extractLsb']; rfl

@[simp] theorem getElem_packI_25 (imm : BitVec 12) (rs1 : Reg) (f3 : BitVec 3) (rd : Reg) (op : BitVec 7) :
    (packI imm rs1 f3 rd op)[25] = imm[5] := by
  have h := congrArg (·[5]) (immIOf_packI imm rs1 f3 rd op)
  simpa [immIOf] using h

end Fields

/-! ### The immediate field of a shift: its upper bits and its amount (R130) -/

@[simp] theorem upper6_append (f6 shamt : BitVec 6) : BitVec.extractLsb' 6 6 (f6 ++ shamt : BitVec 12) = f6 :=
  BitVec.extractLsb'_append_eq_left

@[simp] theorem lower6_append (f6 shamt : BitVec 6) : BitVec.extractLsb' 0 6 (f6 ++ shamt : BitVec 12) = shamt :=
  BitVec.extractLsb'_append_eq_right

@[simp] theorem bit5_append (f6 shamt : BitVec 6) : (f6 ++ shamt : BitVec 12)[5] = shamt[5] :=
  (BitVec.getElem_append ..).trans (by simp)

@[simp] theorem upper7_append (f7 : BitVec 7) (shamt : BitVec 5) : BitVec.extractLsb' 5 7 (f7 ++ shamt : BitVec 12) = f7 :=
  BitVec.extractLsb'_append_eq_left

@[simp] theorem lower5_append (f7 : BitVec 7) (shamt : BitVec 5) : BitVec.extractLsb' 0 5 (f7 ++ shamt : BitVec 12) = shamt :=
  BitVec.extractLsb'_append_eq_right

/-! ### What the decoder does with each opcode (R123, R131) -/

/-- `d` is the decoder's answer to `w`, by the opcode. -/
inductive OpcodeCase (shamt6 : Bool) (w : InstrWord) (d : Decoded) : Prop where
  | lui (hop : opcodeOf w = 0b0110111#7) (hd : d = .ok (.lui (rdOf w) (immUOf w)))
  | auipc (hop : opcodeOf w = 0b0010111#7) (hd : d = .ok (.auipc (rdOf w) (immUOf w)))
  | jal (hop : opcodeOf w = 0b1101111#7) (hd : d = .ok (.jal (rdOf w) (immUJOf w)))
  | jalr (hop : opcodeOf w = 0b1100111#7)
    (hd : d = if func3Of w = 0b000#3 then .ok (.jalr (rdOf w) (rs1Of w) (immIOf w)) else .reject .unmapped)
  | branch (hop : opcodeOf w = 0b1100011#7) (hd : d = decodeBranch w)
  | load (hop : opcodeOf w = 0b0000011#7) (hd : d = decodeLoad w)
  | store (hop : opcodeOf w = 0b0100011#7) (hd : d = decodeStore w)
  | opImm (hop : opcodeOf w = 0b0010011#7) (hd : d = decodeOpImm shamt6 w)
  | opImm32 (hop : opcodeOf w = 0b0011011#7) (hd : d = decodeOpImm32 w)
  | op (hop : opcodeOf w = 0b0110011#7) (hd : d = decodeOp w)
  | op32 (hop : opcodeOf w = 0b0111011#7) (hd : d = decodeOp32 w)
  | system (hop : opcodeOf w = 0b1110011#7) (hd : d = if w = 0x00000073#32 then .ok .ecall else .reject .notEcall)
  | noType (hop : formatOf (opcodeOf w) = none) (hd : d = .reject .noType)

theorem decode_opcodeCase (shamt6 : Bool) (w : InstrWord) : OpcodeCase shamt6 w (decode shamt6 w) :=
  if h : opcodeOf w = 0b0110111#7 then .lui h (by simp [decode, h])
  else if h : opcodeOf w = 0b0010111#7 then .auipc h (by simp [decode, h])
  else if h : opcodeOf w = 0b1101111#7 then .jal h (by simp [decode, h])
  else if h : opcodeOf w = 0b1100111#7 then .jalr h (by simp [decode, h])
  else if h : opcodeOf w = 0b1100011#7 then .branch h (by simp [decode, h])
  else if h : opcodeOf w = 0b0000011#7 then .load h (by simp [decode, h])
  else if h : opcodeOf w = 0b0100011#7 then .store h (by simp [decode, h])
  else if h : opcodeOf w = 0b0010011#7 then .opImm h (by simp [decode, h])
  else if h : opcodeOf w = 0b0011011#7 then .opImm32 h (by simp [decode, h])
  else if h : opcodeOf w = 0b0110011#7 then .op h (by simp [decode, h])
  else if h : opcodeOf w = 0b0111011#7 then .op32 h (by simp [decode, h])
  else if h : opcodeOf w = 0b1110011#7 then .system h (by simp [decode, h])
  else .noType (by simp [formatOf, *]) (by simp [decode, *])

theorem formatOf_eq_none_iff (op : BitVec 7) : formatOf op = none ↔
    op ≠ 0b0110111#7 ∧ op ≠ 0b0010111#7 ∧ op ≠ 0b1101111#7 ∧ op ≠ 0b1100111#7 ∧ op ≠ 0b1100011#7 ∧ op ≠ 0b0000011#7 ∧
    op ≠ 0b0100011#7 ∧ op ≠ 0b0010011#7 ∧ op ≠ 0b0011011#7 ∧ op ≠ 0b0110011#7 ∧ op ≠ 0b0111011#7 ∧ op ≠ 0b1110011#7 := by
  revert op
  decide

theorem func3_cases : ∀ f : BitVec 3, f = 0b000#3 ∨ f = 0b001#3 ∨ f = 0b010#3 ∨ f = 0b011#3 ∨ f = 0b100#3 ∨ f = 0b101#3 ∨
    f = 0b110#3 ∨ f = 0b111#3 := by decide

/-! ### A word that decodes is the encoding of what it decodes to -/

section EncodeOfDecode

variable {shamt6 : Bool} {w : InstrWord} {i : Instr}

theorem encode_of_decodeBranch (hop : opcodeOf w = 0b1100011#7) (h : decodeBranch w = .ok i) :
    i.wf shamt6 = true ∧ encode i = w := by
  simp only [decodeBranch] at h
  split_ifs at h with hf hf hf hf hf hf <;> cases h <;> exact ⟨immSBOf_even w, packSB_of_fields hop hf⟩

theorem encode_of_decodeLoad (hop : opcodeOf w = 0b0000011#7) (h : decodeLoad w = .ok i) :
    i.wf shamt6 = true ∧ encode i = w := by
  simp only [decodeLoad] at h
  split_ifs at h with hf hf hf hf hf hf hf <;> cases h <;> exact ⟨rfl, packI_of_fields hop hf⟩

theorem encode_of_decodeStore (hop : opcodeOf w = 0b0100011#7) (h : decodeStore w = .ok i) :
    i.wf shamt6 = true ∧ encode i = w := by
  simp only [decodeStore] at h
  split_ifs at h with hf hf hf hf <;> cases h <;> exact ⟨rfl, packS_of_fields hop hf⟩

theorem encode_of_decodeShiftImm {left : Bool} (hop : opcodeOf w = 0b0010011#7)
    (hf3 : func3Of w = if left then 0b001#3 else 0b101#3) (h : decodeShiftImm shamt6 w left = .ok i) :
    i.wf shamt6 = true ∧ encode i = w := by
  simp only [decodeShiftImm] at h
  rcases ite_eq_iff.mp h with ⟨-, h⟩ | ⟨hlong, h⟩
  · cases h
  have hwf : (shamt6 || !(shamt6Of w).getLsbD 5) = true := by
    rw [getLsbD_shamt6Of_five]
    revert hlong
    cases shamt6 <;> cases w.getLsbD 25 <;> decide
  rcases ite_eq_iff.mp h with ⟨hf6, h⟩ | ⟨-, h⟩
  · cases h
    cases left <;> exact ⟨hwf, packI_shamt6_of_fields hop hf3 hf6⟩
  rcases ite_eq_iff.mp h with ⟨⟨hf6, hright⟩, h⟩ | ⟨-, h⟩ <;> cases h
  rw [hright] at hf3
  exact ⟨hwf, packI_shamt6_of_fields hop hf3 hf6⟩

theorem encode_of_decodeOpImm (hop : opcodeOf w = 0b0010011#7) (h : decodeOpImm shamt6 w = .ok i) :
    i.wf shamt6 = true ∧ encode i = w := by
  simp only [decodeOpImm] at h
  split_ifs at h with h0 h1 h2 h3 h4 h5 h6
  · cases h; exact ⟨rfl, packI_of_fields hop h0⟩
  · exact encode_of_decodeShiftImm (left := true) hop h1 h
  · cases h; exact ⟨rfl, packI_of_fields hop h2⟩
  · cases h; exact ⟨rfl, packI_of_fields hop h3⟩
  · cases h; exact ⟨rfl, packI_of_fields hop h4⟩
  · exact encode_of_decodeShiftImm (left := false) hop h5 h
  · cases h; exact ⟨rfl, packI_of_fields hop h6⟩
  · have h7 : func3Of w = 0b111#3 := by simpa [*] using func3_cases (func3Of w)
    cases h; exact ⟨rfl, packI_of_fields hop h7⟩

theorem encode_of_decodeOpImm32 (hop : opcodeOf w = 0b0011011#7) (h : decodeOpImm32 w = .ok i) :
    i.wf shamt6 = true ∧ encode i = w := by
  simp only [decodeOpImm32] at h
  split_ifs at h with hf hf hf hf <;> cases h
  · exact ⟨rfl, packI_of_fields hop hf⟩
  all_goals exact ⟨rfl, packI_shamt5_of_fields hop hf.1 hf.2⟩

theorem encode_of_decodeOpBase (hop : opcodeOf w = 0b0110011#7) (hf7 : func7Of w = 0b0000000#7) (h : decodeOpBase w = .ok i) :
    i.wf shamt6 = true ∧ encode i = w := by
  simp only [decodeOpBase] at h
  split_ifs at h with hf hf hf hf hf hf hf <;> cases h
  case neg =>
    have h7 : func3Of w = 0b111#3 := by simpa [*] using func3_cases (func3Of w)
    exact ⟨rfl, packR_of_fields hop h7 hf7⟩
  all_goals exact ⟨rfl, packR_of_fields hop hf hf7⟩

theorem encode_of_decodeOp (hop : opcodeOf w = 0b0110011#7) (h : decodeOp w = .ok i) :
    i.wf shamt6 = true ∧ encode i = w := by
  simp only [decodeOp] at h
  rcases ite_eq_iff.mp h with ⟨hf7, h⟩ | ⟨-, h⟩
  · exact encode_of_decodeOpBase hop hf7 h
  · split_ifs at h with hf hf hf hf hf hf <;> cases h <;> exact ⟨rfl, packR_of_fields hop hf.2 hf.1⟩

theorem encode_of_decodeOp32 (hop : opcodeOf w = 0b0111011#7) (h : decodeOp32 w = .ok i) :
    i.wf shamt6 = true ∧ encode i = w := by
  simp only [decodeOp32] at h
  split_ifs at h with hf hf hf hf hf <;> cases h <;> exact ⟨rfl, packR_of_fields hop hf.2 hf.1⟩

end EncodeOfDecode

/-- Settles O2: opcode by opcode, the fields that select the operation are those the encoder writes. -/
theorem encodeOfDecode : Obligations.EncodeOfDecode := by
  intro shamt6 w i h
  cases decode_opcodeCase shamt6 w with
  | lui hop hd | auipc hop hd => cases h.symm.trans hd; exact ⟨rfl, packU_of_fields hop⟩
  | jal hop hd => cases h.symm.trans hd; exact ⟨immUJOf_even w, packUJ_of_fields hop⟩
  | jalr hop hd =>
    rw [h] at hd
    split_ifs at hd with hf
    cases hd
    exact ⟨rfl, packI_of_fields hop hf⟩
  | branch hop hd => exact encode_of_decodeBranch hop (hd ▸ h)
  | load hop hd => exact encode_of_decodeLoad hop (hd ▸ h)
  | store hop hd => exact encode_of_decodeStore hop (hd ▸ h)
  | opImm hop hd => exact encode_of_decodeOpImm hop (hd ▸ h)
  | opImm32 hop hd => exact encode_of_decodeOpImm32 hop (hd ▸ h)
  | op hop hd => exact encode_of_decodeOp hop (hd ▸ h)
  | op32 hop hd => exact encode_of_decodeOp32 hop (hd ▸ h)
  | system hop hd =>
    rw [h] at hd
    split_ifs at hd with hw
    cases hd
    exact ⟨rfl, hw.symm⟩
  | noType hop hd => cases h.symm.trans hd

/-! ### The encoding of a well-formed instruction decodes to it -/

/-- Settles O1: the decoder reads back each field the encoder packed. Well-formedness enters for the displacements, whose bit 0 the
word does not hold, and for the long shift amounts. -/
theorem decodeOfEncode : Obligations.DecodeOfEncode := by
  intro shamt6 i h
  cases i with
  | lui | auipc => simp [encode, decode]
  | jal rd off =>
    simp only [Instr.wf, Bool.not_eq_true'] at h
    simp [encode, decode, immUJOf_packUJ _ _ _ h]
  | jalr => simp [encode, decode]
  | beq rs1 rs2 off | bne rs1 rs2 off | blt rs1 rs2 off | bge rs1 rs2 off | bltu rs1 rs2 off | bgeu rs1 rs2 off =>
    simp only [Instr.wf, Bool.not_eq_true'] at h
    simp [encode, decode, decodeBranch, immSBOf_packSB _ _ _ _ _ h]
  | lb | lh | lw | ld | lbu | lhu | lwu => simp [encode, decode, decodeLoad]
  | sb | sh | sw | sd => simp [encode, decode, decodeStore]
  | addi | slti | sltiu | xori | ori | andi => simp [encode, decode, decodeOpImm]
  | slli rd rs1 shamt | srli rd rs1 shamt | srai rd rs1 shamt =>
    have h5 : shamt6 = false → shamt.getLsbD 5 = false := by
      rintro rfl
      simpa only [Instr.wf, Bool.false_or, Bool.not_eq_true'] using h
    simpa [encode, decode, decodeOpImm, decodeShiftImm] using h5
  | add | sll | slt | sltu | xor | srl | or | and => simp [encode, decode, decodeOp, decodeOpBase]
  | sub | sra | mul | mulh | div | rem => simp [encode, decode, decodeOp]
  | addiw | slliw | srliw | sraiw => simp [encode, decode, decodeOpImm32]
  | addw | subw | sllw | srlw | sraw => simp [encode, decode, decodeOp32]
  | ecall => rfl

theorem decode_eq_ok_iff {shamt6 : Bool} {w : InstrWord} {i : Instr} :
    decode shamt6 w = .ok i ↔ i.wf shamt6 = true ∧ encode i = w :=
  ⟨encodeOfDecode shamt6 w i, fun ⟨hwf, hw⟩ => hw ▸ decodeOfEncode shamt6 i hwf⟩

/-- Settles O4: the first part by the two directions above, the others by the opcode. -/
theorem onlyTheEcallWord : Obligations.OnlyTheEcallWord := by
  intro shamt6 w
  refine ⟨?_, fun hop hw => ⟨.notEcall, ?_⟩, fun hop hf3 => ⟨.unmapped, ?_⟩⟩
  · rw [decode_eq_ok_iff, eq_comm (a := w)]
    exact and_iff_right rfl
  · simp [decode, hop, hw]
  · simp [decode, hop, hf3]

/-- Settles O5, by evaluating the decoder on the thirteen words. -/
theorem familyWords : Obligations.FamilyWords := by
  unfold Obligations.FamilyWords
  decide

/-! ### The immediates by the weights of their bits (R125 to R129) -/

theorem toNat_extractLsb'_succ {n : Nat} (x : BitVec n) (s m : Nat) :
    (x.extractLsb' s (m + 1)).toNat = 2 ^ m * (x.getLsbD (s + m)).toNat + (x.extractLsb' s m).toNat := by
  rw [BitVec.extractLsb'_toNat, BitVec.extractLsb'_toNat, Nat.mod_pow_succ, BitVec.getLsbD, ← Nat.testBit_shiftRight,
    Nat.toNat_testBit, Nat.add_comm]

/-- The top bit of a field read as a signed number weighs negatively. -/
theorem toInt_extractLsb'_succ {n : Nat} (x : BitVec n) (s m : Nat) :
    (x.extractLsb' s (m + 1)).toInt = -2 ^ m * ((x.getLsbD (s + m)).toNat : Int) + (x.extractLsb' s m).toNat := by
  have hlow := (x.extractLsb' s m).isLt
  rw [BitVec.toInt_eq_toNat_cond, toNat_extractLsb'_succ]
  push_cast
  cases x.getLsbD (s + m) <;> simp [pow_succ] <;> omega

theorem toNat_bit (w : InstrWord) (k : Nat) : (w.extractLsb' k 1).toNat = (w.getLsbD k).toNat := by
  rw [toNat_extractLsb'_succ, BitVec.toNat_of_zero_length rfl, pow_zero, Nat.one_mul]; rfl

theorem toInt_bit (w : InstrWord) (k : Nat) : (w.extractLsb' k 1).toInt = -((w.getLsbD k).toNat : Int) := by
  rw [toInt_extractLsb'_succ, BitVec.toNat_of_zero_length rfl]; simp

theorem toInt_immIOf (w : InstrWord) :
    (immIOf w).toInt = -2048 * ((w.getLsbD 31).toNat : Int) + (w.extractLsb' 20 11).toNat :=
  toInt_extractLsb'_succ w 20 11

theorem toInt_immSOf (w : InstrWord) : (immSOf w).toInt =
    -2048 * ((w.getLsbD 31).toNat : Int) + 32 * (w.extractLsb' 25 6).toNat + (w.extractLsb' 7 5).toNat := by
  have hupper : (func7Of w).toInt = -64 * ((w.getLsbD 31).toNat : Int) + (w.extractLsb' 25 6).toNat :=
    toInt_extractLsb'_succ w 25 6
  rw [immSOf, BitVec.toInt_append, if_neg (by decide), hupper, rdOf]
  ring

theorem toInt_immSBOf (w : InstrWord) : (immSBOf w).toInt =
    -4096 * ((w.getLsbD 31).toNat : Int) + 2048 * ((w.getLsbD 7).toNat : Int) + 32 * (w.extractLsb' 25 6).toNat +
      2 * (w.extractLsb' 8 4).toNat := by
  simp only [immSBOf, BitVec.toInt_append, toInt_bit, toNat_bit]
  norm_num
  ring

theorem toInt_immUOf_append (w : InstrWord) : (immUOf w ++ 0#12).toInt =
    -2147483648 * ((w.getLsbD 31).toNat : Int) + 4096 * (w.extractLsb' 12 19).toNat := by
  have hupper : (immUOf w).toInt = -524288 * ((w.getLsbD 31).toNat : Int) + (w.extractLsb' 12 19).toNat :=
    toInt_extractLsb'_succ w 12 19
  rw [BitVec.toInt_append, if_neg (by decide), hupper, BitVec.toNat_ofNat]
  ring

theorem toInt_immUJOf (w : InstrWord) : (immUJOf w).toInt =
    -1048576 * ((w.getLsbD 31).toNat : Int) + 4096 * (w.extractLsb' 12 8).toNat + 2048 * ((w.getLsbD 20).toNat : Int) +
      2 * (w.extractLsb' 21 10).toNat := by
  simp only [immUJOf, BitVec.toInt_append, toInt_bit, toNat_bit]
  norm_num
  ring

/-- Settles O6: sign extension keeps the number, whose weights give the range and the parity. -/
theorem immediatesOfTheRecord : Obligations.ImmediatesOfTheRecord := by
  intro r
  dsimp only
  have hsign := Bool.toNat_le (r.word.getLsbD 31)
  refine ⟨fun ht => ?_, fun ht => ?_, fun ht => ?_, fun ht => ?_, fun ht => ?_⟩ <;>
    simp only [Inst.imm, ht] <;> rw [BitVec.toInt_signExtend_of_le (by decide)]
  · have := (r.word.extractLsb' 20 11).isLt
    rw [toInt_immIOf]
    omega
  · have := (r.word.extractLsb' 25 6).isLt
    have := (r.word.extractLsb' 7 5).isLt
    rw [toInt_immSOf]
    omega
  · have := Bool.toNat_le (r.word.getLsbD 7)
    have := (r.word.extractLsb' 25 6).isLt
    have := (r.word.extractLsb' 8 4).isLt
    rw [toInt_immSBOf]
    omega
  · rw [toInt_immUOf_append]
    omega
  · have := (r.word.extractLsb' 12 8).isLt
    have := Bool.toNat_le (r.word.getLsbD 20)
    have := (r.word.extractLsb' 21 10).isLt
    rw [toInt_immUJOf]
    omega

/-! ### The masks of the opcode map select fields (R121) -/

theorem and_opcode_mask (w : InstrWord) : w &&& 0x0000007F#32 = packU 0 0 (opcodeOf w) := by
  apply BitVec.eq_of_getLsbD_eq
  intro k hk
  simp only [packU, opcodeOf, BitVec.getLsbD_and, BitVec.getLsbD_append, BitVec.getLsbD_extractLsb']
  interval_cases k <;> simp

theorem and_func3_mask (w : InstrWord) : w &&& 0x0000707F#32 = packI 0 0 (func3Of w) 0 (opcodeOf w) := by
  apply BitVec.eq_of_getLsbD_eq
  intro k hk
  simp only [packI, func3Of, opcodeOf, BitVec.getLsbD_and, BitVec.getLsbD_append, BitVec.getLsbD_extractLsb']
  interval_cases k <;> simp

theorem and_func6_mask (w : InstrWord) : w &&& 0xFC00707F#32 = packI (func6Of w ++ 0#6) 0 (func3Of w) 0 (opcodeOf w) := by
  apply BitVec.eq_of_getLsbD_eq
  intro k hk
  simp only [packI, func6Of, func3Of, opcodeOf, BitVec.getLsbD_and, BitVec.getLsbD_append, BitVec.getLsbD_extractLsb']
  interval_cases k <;> simp

theorem and_func7_mask (w : InstrWord) : w &&& 0xFE00707F#32 = packR (func7Of w) 0 0 (func3Of w) 0 (opcodeOf w) := by
  apply BitVec.eq_of_getLsbD_eq
  intro k hk
  simp only [packR, func7Of, func3Of, opcodeOf, BitVec.getLsbD_and, BitVec.getLsbD_append, BitVec.getLsbD_extractLsb']
  interval_cases k <;> simp

section Masks

variable {w v : InstrWord}

theorem and_opcode_mask_eq_iff (hv : v &&& 0x0000007F#32 = v) : w &&& 0x0000007F#32 = v ↔ opcodeOf w = opcodeOf v := by
  refine ⟨fun h => ?_, fun hop => ?_⟩
  · rw [← h, and_opcode_mask, opcodeOf_packU]
  · rw [← hv, and_opcode_mask, and_opcode_mask, hop]

theorem and_func3_mask_eq_iff (hv : v &&& 0x0000707F#32 = v) :
    w &&& 0x0000707F#32 = v ↔ opcodeOf w = opcodeOf v ∧ func3Of w = func3Of v := by
  refine ⟨fun h => ?_, fun ⟨hop, hf3⟩ => ?_⟩
  · simp [← h, and_func3_mask]
  · rw [← hv, and_func3_mask, and_func3_mask, hop, hf3]

theorem and_func6_mask_eq_iff (hv : v &&& 0xFC00707F#32 = v) :
    w &&& 0xFC00707F#32 = v ↔ opcodeOf w = opcodeOf v ∧ func3Of w = func3Of v ∧ func6Of w = func6Of v := by
  refine ⟨fun h => ?_, fun ⟨hop, hf3, hf6⟩ => ?_⟩
  · simp [← h, and_func6_mask]
  · rw [← hv, and_func6_mask, and_func6_mask, hop, hf3, hf6]

theorem and_func7_mask_eq_iff (hv : v &&& 0xFE00707F#32 = v) :
    w &&& 0xFE00707F#32 = v ↔ opcodeOf w = opcodeOf v ∧ func3Of w = func3Of v ∧ func7Of w = func7Of v := by
  refine ⟨fun h => ?_, fun ⟨hop, hf3, hf7⟩ => ?_⟩
  · simp [← h, and_func7_mask]
  · rw [← hv, and_func7_mask, and_func7_mask, hop, hf3, hf7]

end Masks

/-! The fields of a literal word, for the rows' values. -/

@[simp] theorem opcodeOf_ofNat (n : Nat) : opcodeOf (BitVec.ofNat 32 n) = BitVec.ofNat 7 n := by
  apply BitVec.eq_of_toNat_eq
  simp [opcodeOf]

@[simp] theorem func3Of_ofNat (n : Nat) : func3Of (BitVec.ofNat 32 n) = BitVec.ofNat 3 (n >>> 12) := by
  apply BitVec.eq_of_toNat_eq
  simp [func3Of, Nat.shiftRight_eq_div_pow]
  omega

@[simp] theorem func6Of_ofNat (n : Nat) : func6Of (BitVec.ofNat 32 n) = BitVec.ofNat 6 (n >>> 26) := by
  apply BitVec.eq_of_toNat_eq
  simp [func6Of, Nat.shiftRight_eq_div_pow]
  omega

@[simp] theorem func7Of_ofNat (n : Nat) : func7Of (BitVec.ofNat 32 n) = BitVec.ofNat 7 (n >>> 25) := by
  apply BitVec.eq_of_toNat_eq
  simp [func7Of, Nat.shiftRight_eq_div_pow]
  omega

/-! ### The first row a word matches names what the word decodes to (R134) -/

/-- The operation the decoder found, by name. -/
def Decoded.mnemonic? : Decoded → Option String
  | .ok i => some i.mnemonic
  | .reject _ => none

@[simp] theorem Decoded.mnemonic?_ok (i : Instr) : (Decoded.ok i).mnemonic? = some i.mnemonic := rfl

@[simp] theorem Decoded.mnemonic?_reject (why : DecodeReject) : (Decoded.reject why).mnemonic? = none := rfl

@[simp] theorem Decoded.mnemonic?_ite (p : Prop) [Decidable p] (d d' : Decoded) :
    (if p then d else d').mnemonic? = if p then d.mnemonic? else d'.mnemonic? := apply_ite ..

/-- The name of the first of some rows that a word matches. -/
def mnemonicIn (rows : List OpcodeRow) (w : InstrWord) : Option String := (rows.find? (·.hits w)).map (·.mnemonic)

@[simp] theorem mnemonicIn_nil (w : InstrWord) : mnemonicIn [] w = none := rfl

@[simp] theorem mnemonicIn_cons (name : String) (val mask : InstrWord) (rows : List OpcodeRow) (w : InstrWord) :
    mnemonicIn (⟨name, val, mask⟩ :: rows) w = if w &&& mask = val then some name else mnemonicIn rows w := by
  by_cases h : w &&& mask = val <;> simp [mnemonicIn, OpcodeRow.hits, h]

theorem mnemonicIn_append (rows rows' : List OpcodeRow) (w : InstrWord) :
    mnemonicIn (rows ++ rows') w = (mnemonicIn rows w).or (mnemonicIn rows' w) := by
  simp [mnemonicIn, List.find?_append, Option.map_or]

theorem exists_row_of_mnemonicIn {rows : List OpcodeRow} {w : InstrWord} {name : String} (h : mnemonicIn rows w = some name) :
    ∃ r ∈ rows, r.hits w = true ∧ r.mnemonic = name := by
  obtain ⟨r, hr, hname⟩ := Option.map_eq_some_iff.mp h
  have hhit := List.find?_some hr
  exact ⟨r, List.mem_of_find?_eq_some hr, hhit, hname⟩

theorem no_row_of_mnemonicIn {rows : List OpcodeRow} {w : InstrWord} (h : mnemonicIn rows w = none) :
    ∀ r ∈ rows, r.hits w = false := by
  simpa [mnemonicIn] using h

/-- Looking on in further rows is looking on where the first ones end. -/
theorem some_ite_or {p : Prop} [Decidable p] (name : String) (x y : Option String) :
    (if p then some name else x).or y = if p then some name else x.or y := by
  by_cases h : p <;> simp [h]

section Families

variable (w : InstrWord)

theorem mnemonicIn_rowsUpper : mnemonicIn rowsUpper w =
    if opcodeOf w = 0b0110111#7 then some "LUI"
    else if opcodeOf w = 0b0010111#7 then some "AUIPC"
    else if opcodeOf w = 0b1101111#7 then some "JAL"
    else if opcodeOf w = 0b1100111#7 ∧ func3Of w = 0b000#3 then some "JALR"
    else none := by
  simp [rowsUpper, and_opcode_mask_eq_iff, and_func3_mask_eq_iff]

theorem mnemonicIn_rowsBranch :
    mnemonicIn rowsBranch w = if opcodeOf w = 0b1100011#7 then (decodeBranch w).mnemonic? else none := by
  by_cases hop : opcodeOf w = 0b1100011#7 <;>
    simp [rowsBranch, and_func3_mask_eq_iff, hop, decodeBranch, Instr.mnemonic]

theorem mnemonicIn_rowsLoad :
    mnemonicIn rowsLoad w = if opcodeOf w = 0b0000011#7 then (decodeLoad w).mnemonic? else none := by
  by_cases hop : opcodeOf w = 0b0000011#7 <;>
    simp [rowsLoad, and_func3_mask_eq_iff, hop, decodeLoad, Instr.mnemonic]

theorem mnemonicIn_rowsStore :
    mnemonicIn rowsStore w = if opcodeOf w = 0b0100011#7 then (decodeStore w).mnemonic? else none := by
  by_cases hop : opcodeOf w = 0b0100011#7 <;>
    simp [rowsStore, and_func3_mask_eq_iff, hop, decodeStore, Instr.mnemonic]

/-- The rows stand in another order than the decoder's branches, so the cases of func3 are taken one by one. -/
theorem mnemonicIn_rowsOpImm :
    mnemonicIn rowsOpImm w = if opcodeOf w = 0b0010011#7 then (decodeOpImm true w).mnemonic? else none := by
  by_cases hop : opcodeOf w = 0b0010011#7
  · rcases func3_cases (func3Of w) with hf | hf | hf | hf | hf | hf | hf | hf <;>
      simp [rowsOpImm, and_func3_mask_eq_iff, and_func6_mask_eq_iff, hop, hf, decodeOpImm, decodeShiftImm, Instr.mnemonic]
  · simp [rowsOpImm, and_func3_mask_eq_iff, and_func6_mask_eq_iff, hop]

theorem mnemonicIn_rowsOp_rowsMul : (mnemonicIn rowsOp w).or (mnemonicIn rowsMul w) =
    if opcodeOf w = 0b0110011#7 then (decodeOp w).mnemonic? else none := by
  by_cases hop : opcodeOf w = 0b0110011#7
  · rcases func3_cases (func3Of w) with hf | hf | hf | hf | hf | hf | hf | hf <;>
      simp [rowsOp, rowsMul, and_func7_mask_eq_iff, hop, hf, decodeOp, decodeOpBase, Instr.mnemonic, some_ite_or]
  · simp [rowsOp, rowsMul, and_func7_mask_eq_iff, hop]

theorem mnemonicIn_rowsOpImm32 :
    mnemonicIn rowsOpImm32 w = if opcodeOf w = 0b0011011#7 then (decodeOpImm32 w).mnemonic? else none := by
  by_cases hop : opcodeOf w = 0b0011011#7 <;>
    simp [rowsOpImm32, and_func3_mask_eq_iff, and_func7_mask_eq_iff, hop, decodeOpImm32, Instr.mnemonic]

theorem mnemonicIn_rowsOp32 :
    mnemonicIn rowsOp32 w = if opcodeOf w = 0b0111011#7 then (decodeOp32 w).mnemonic? else none := by
  by_cases hop : opcodeOf w = 0b0111011#7
  · rcases func3_cases (func3Of w) with hf | hf | hf | hf | hf | hf | hf | hf <;>
      simp [rowsOp32, and_func7_mask_eq_iff, hop, hf, decodeOp32, Instr.mnemonic]
  · simp [rowsOp32, and_func7_mask_eq_iff, hop]

theorem mnemonicIn_rowsSystem : mnemonicIn rowsSystem w = if w = 0x00000073#32 then some "ECALL" else none := by
  have hall : w &&& 0xFFFFFFFF#32 = w := BitVec.and_allOnes
  simp [rowsSystem, hall]

theorem mnemonicIn_opcodeRows_eq_or : mnemonicIn opcodeRows w =
    (mnemonicIn rowsUpper w).or ((mnemonicIn rowsBranch w).or ((mnemonicIn rowsLoad w).or ((mnemonicIn rowsStore w).or
      ((mnemonicIn rowsOpImm w).or (((mnemonicIn rowsOp w).or (mnemonicIn rowsMul w)).or ((mnemonicIn rowsOpImm32 w).or
        ((mnemonicIn rowsOp32 w).or (mnemonicIn rowsSystem w)))))))) := by
  simp only [opcodeRows, mnemonicIn_append, Option.or_assoc]

theorem mnemonicIn_opcodeRows : mnemonicIn opcodeRows w = (decode true w).mnemonic? := by
  have hsystem : opcodeOf w ≠ 0b1110011#7 → w ≠ 0x00000073#32 := fun h he => h (he ▸ rfl)
  rw [mnemonicIn_opcodeRows_eq_or, mnemonicIn_rowsUpper, mnemonicIn_rowsBranch, mnemonicIn_rowsLoad, mnemonicIn_rowsStore,
    mnemonicIn_rowsOpImm, mnemonicIn_rowsOp_rowsMul, mnemonicIn_rowsOpImm32, mnemonicIn_rowsOp32, mnemonicIn_rowsSystem]
  cases decode_opcodeCase true w with
  | lui hop hd | auipc hop hd | jal hop hd => simp [hop, hd, Instr.mnemonic]
  | jalr hop hd =>
    have hw := hsystem (by simp [hop])
    simp [hop, hd, hw, Instr.mnemonic]
  | branch hop hd | load hop hd | store hop hd | opImm hop hd | opImm32 hop hd | op hop hd | op32 hop hd =>
    have hw := hsystem (by simp [hop])
    simp [hop, hd, hw]
  | system hop hd => simp [hop, hd, Instr.mnemonic]
  | noType hop hd =>
    rw [formatOf_eq_none_iff] at hop
    have hw := hsystem (by simp [hop])
    simp [hop, hd, hw]

end Families

/-! ### No two rows overlap -/

/-- Two rows differ in a bit that both masks keep. -/
def OpcodeRow.apart (r r' : OpcodeRow) : Bool := r.val &&& r'.mask != r'.val &&& r.mask

theorem OpcodeRow.not_hits_of_apart {r r' : OpcodeRow} (h : r.apart r' = true) {w : InstrWord} (hr : r.hits w = true)
    (hr' : r'.hits w = true) : False := by
  simp only [OpcodeRow.apart, OpcodeRow.hits, beq_iff_eq, bne_iff_ne] at h hr hr'
  apply h
  rw [← hr, ← hr', BitVec.and_assoc, BitVec.and_assoc, BitVec.and_comm r.mask]

theorem opcodeRows_pairwise_apart : opcodeRows.Pairwise fun r r' => r.apart r' = true := by decide

theorem length_filter_le_one {α : Type} {p : α → Bool} {l : List α} (h : l.Pairwise fun a b => p a = true → p b = true → False) :
    (l.filter p).length ≤ 1 := by
  have hpair := h.filter p
  have hall : ∀ x ∈ l.filter p, p x = true := fun x hx => (List.mem_filter.mp hx).2
  generalize l.filter p = hits at hpair hall
  match hits, hpair, hall with
  | [], _, _ | [_], _, _ => simp
  | a :: b :: _, hpair, hall =>
    exact (List.rel_of_pairwise_cons hpair (by simp) (hall a (by simp)) (hall b (by simp))).elim

/-! ### What `Shamt6 = false` takes from the decoder (R130) -/

theorem decodeShiftImm_of_long {w : InstrWord} (h : w.getLsbD 25 = true) (left : Bool) :
    decodeShiftImm false w left = .reject .unmapped := by
  rw [decodeShiftImm, h]; rfl

theorem decodeShiftImm_of_short {w : InstrWord} (h : w.getLsbD 25 = false) (shamt6 left : Bool) :
    decodeShiftImm shamt6 w left = decodeShiftImm true w left := by
  rw [decodeShiftImm, h, Bool.and_false]; rfl

theorem decode_false_of_long {w : InstrWord} (hop : opcodeOf w = 0b0010011#7) (hf3 : func3Of w = 0b001#3 ∨ func3Of w = 0b101#3)
    (h25 : w.getLsbD 25 = true) : decode false w = .reject .unmapped := by
  rcases hf3 with hf3 | hf3 <;> simp [decode, hop, decodeOpImm, hf3, decodeShiftImm_of_long h25]

theorem decode_false_of_not_long {w : InstrWord}
    (h : ¬(opcodeOf w = 0b0010011#7 ∧ (func3Of w = 0b001#3 ∨ func3Of w = 0b101#3) ∧ w.getLsbD 25 = true)) :
    decode false w = decode true w := by
  by_cases hop : opcodeOf w = 0b0010011#7
  · by_cases hf3 : func3Of w = 0b001#3 ∨ func3Of w = 0b101#3
    · have h25 : w.getLsbD 25 = false := by simpa only [hop, hf3, true_and, Bool.not_eq_true] using h
      simp only [decode, decodeOpImm, decodeShiftImm_of_short h25 false]
    · obtain ⟨h1, h5⟩ := not_or.mp hf3
      simp only [decode, decodeOpImm, if_neg h1, if_neg h5]
  · simp [decode, hop]

/-- Settles O3: the decoder finds what the first matching row names, and the rows are apart. -/
theorem decoderFollowsOpcodeMap : Obligations.DecoderFollowsOpcodeMap := by
  intro w
  refine ⟨?_, fun i h => ?_, fun why h => ?_, fun ⟨hop, hf3, h25⟩ => ⟨_, decode_false_of_long hop hf3 h25⟩,
    decode_false_of_not_long⟩
  · exact length_filter_le_one (opcodeRows_pairwise_apart.imp fun h => OpcodeRow.not_hits_of_apart h)
  · apply exists_row_of_mnemonicIn
    rw [mnemonicIn_opcodeRows, h, Decoded.mnemonic?_ok]
  · apply no_row_of_mnemonicIn
    rw [mnemonicIn_opcodeRows, h, Decoded.mnemonic?_reject]

/-! ### The decoded record and its operation (R124, R130, R139) -/

/-- The record is of a shift with an immediate amount (R130). -/
def Inst.ShiftImm (r : Inst) : Prop :=
  r.type = some .i ∧ (r.opcode = 0b0010011#7 ∨ r.opcode = 0b0011011#7) ∧ (r.func3 = 0b001#3 ∨ r.func3 = 0b101#3)

/-- What `RecordAgreesWithOperands` says of the record of a word that decodes, apart from Fetch's pre-decoding. -/
def Inst.Agrees (r : Inst) : Prop :=
  (r.op = .ecall → r.op.srcs = (some 10, some 17) ∧ r.op.dst = none ∧ r.op.immediate = none ∧ r.op.shiftAmount = none) ∧
  (r.type = some .r →
    r.op.srcs = (some r.rs1, some r.rs2) ∧ r.op.dst = some r.rd ∧ r.op.immediate = none ∧ r.op.shiftAmount = none) ∧
  (r.type = some .i → r.op ≠ .ecall → r.op.srcs = (some r.rs1, none) ∧ r.op.dst = some r.rd) ∧
  (r.type = some .i → r.op ≠ .ecall → ¬ r.ShiftImm → r.op.immediate = some r.imm ∧ r.op.shiftAmount = none) ∧
  (r.ShiftImm → r.op.immediate = none ∧ r.op.shiftAmount =
    some (if r.opcode = 0b0010011#7 then (r.word.extractLsb' 20 6).toNat else (r.word.extractLsb' 20 5).toNat)) ∧
  (r.type = some .s ∨ r.type = some .sb → r.op.srcs = (some r.rs1, some r.rs2) ∧ r.op.dst = none) ∧
  (r.type = some .u ∨ r.type = some .uj → r.op.srcs = (none, none) ∧ r.op.dst = some r.rd) ∧
  (r.type = some .s ∨ r.type = some .sb ∨ r.type = some .u ∨ r.type = some .uj →
    r.op.immediate = some r.imm ∧ r.op.shiftAmount = none) ∧ r.type ≠ none

section Shapes

variable {i : Instr} {op : BitVec 7} {f3 : BitVec 3} {rd rs1 rs2 : Reg} {addr : Word}

theorem agrees_packR {f7 : BitVec 7} (hop : formatOf op = some .r) (hs : i.srcs = (some rs1, some rs2)) (hd : i.dst = some rd)
    (hi : i.immediate = none) (ha : i.shiftAmount = none) : Inst.Agrees ⟨packR f7 rs2 rs1 f3 rd op, addr, i⟩ := by
  have hne : i ≠ .ecall := by rintro rfl; cases hd
  simp [Inst.Agrees, Inst.ShiftImm, Inst.type, Inst.rs1, Inst.rs2, Inst.rd, Inst.opcode, hop, hs, hd, hi, ha, hne]

theorem agrees_packI {imm : BitVec 12} (hop : formatOf op = some .i)
    (hshift : ¬ ((op = 0b0010011#7 ∨ op = 0b0011011#7) ∧ (f3 = 0b001#3 ∨ f3 = 0b101#3))) (hs : i.srcs = (some rs1, none))
    (hd : i.dst = some rd) (hi : i.immediate = some (imm.signExtend 64)) (ha : i.shiftAmount = none) :
    Inst.Agrees ⟨packI imm rs1 f3 rd op, addr, i⟩ := by
  have hne : i ≠ .ecall := by rintro rfl; cases hd
  have hnot : ¬ Inst.ShiftImm ⟨packI imm rs1 f3 rd op, addr, i⟩ := by
    simpa [Inst.ShiftImm, Inst.type, Inst.opcode, Inst.func3, hop] using hshift
  simp [Inst.Agrees, Inst.type, Inst.rs1, Inst.rd, Inst.imm, Inst.opcode, hop, hs, hd, hi, ha, hne, hnot]

theorem agrees_packI_shamt6 {f6 shamt : BitVec 6} (hf3 : f3 = 0b001#3 ∨ f3 = 0b101#3) (hs : i.srcs = (some rs1, none))
    (hd : i.dst = some rd) (hi : i.immediate = none) (ha : i.shiftAmount = some shamt.toNat) :
    Inst.Agrees ⟨packI (f6 ++ shamt) rs1 f3 rd 0b0010011#7, addr, i⟩ := by
  have hne : i ≠ .ecall := by rintro rfl; cases hd
  have hfield : (packI (f6 ++ shamt) rs1 f3 rd 0b0010011#7).extractLsb' 20 6 = shamt :=
    (shamt6Of_packI ..).trans (lower6_append f6 shamt)
  simp [Inst.Agrees, Inst.ShiftImm, Inst.type, formatOf, Inst.opcode, Inst.func3, Inst.rs1, Inst.rd, hf3, hs, hd, hi, ha, hne, hfield]

theorem agrees_packI_shamt5 {f7 : BitVec 7} {shamt : BitVec 5} (hf3 : f3 = 0b001#3 ∨ f3 = 0b101#3) (hs : i.srcs = (some rs1, none))
    (hd : i.dst = some rd) (hi : i.immediate = none) (ha : i.shiftAmount = some shamt.toNat) :
    Inst.Agrees ⟨packI (f7 ++ shamt) rs1 f3 rd 0b0011011#7, addr, i⟩ := by
  have hne : i ≠ .ecall := by rintro rfl; cases hd
  have hfield : (packI (f7 ++ shamt) rs1 f3 rd 0b0011011#7).extractLsb' 20 5 = shamt :=
    (shamt5Of_packI ..).trans (lower5_append f7 shamt)
  simp [Inst.Agrees, Inst.ShiftImm, Inst.type, formatOf, Inst.opcode, Inst.func3, Inst.rs1, Inst.rd, hf3, hs, hd, hi, ha, hne, hfield]

theorem agrees_packS {imm : BitVec 12} (hop : formatOf op = some .s) (hs : i.srcs = (some rs1, some rs2)) (hd : i.dst = none)
    (hi : i.immediate = some (imm.signExtend 64)) (ha : i.shiftAmount = none) :
    Inst.Agrees ⟨packS imm rs2 rs1 f3 op, addr, i⟩ := by
  have hne : i ≠ .ecall := by rintro rfl; cases hi
  simp [Inst.Agrees, Inst.ShiftImm, Inst.type, Inst.rs1, Inst.rs2, Inst.imm, Inst.opcode, hop, hs, hd, hi, ha, hne]

theorem agrees_packSB {off : BitVec 13} (hop : formatOf op = some .sb) (heven : (!off.getLsbD 0) = true)
    (hs : i.srcs = (some rs1, some rs2)) (hd : i.dst = none) (hi : i.immediate = some (off.signExtend 64))
    (ha : i.shiftAmount = none) : Inst.Agrees ⟨packSB off rs2 rs1 f3 op, addr, i⟩ := by
  have hne : i ≠ .ecall := by rintro rfl; cases hi
  have himm := immSBOf_packSB off rs2 rs1 f3 op (by simpa only [Bool.not_eq_true'] using heven)
  simp [Inst.Agrees, Inst.ShiftImm, Inst.type, Inst.rs1, Inst.rs2, Inst.imm, Inst.opcode, hop, hs, hd, hi, ha, hne, himm]

theorem agrees_packU {imm : BitVec 20} (hop : formatOf op = some .u) (hs : i.srcs = (none, none)) (hd : i.dst = some rd)
    (hi : i.immediate = some ((imm ++ 0#12).signExtend 64)) (ha : i.shiftAmount = none) :
    Inst.Agrees ⟨packU imm rd op, addr, i⟩ := by
  have hne : i ≠ .ecall := by rintro rfl; cases hd
  simp [Inst.Agrees, Inst.ShiftImm, Inst.type, Inst.rd, Inst.imm, Inst.opcode, hop, hs, hd, hi, ha, hne]

theorem agrees_packUJ {off : BitVec 21} (hop : formatOf op = some .uj) (heven : (!off.getLsbD 0) = true) (hs : i.srcs = (none, none))
    (hd : i.dst = some rd) (hi : i.immediate = some (off.signExtend 64)) (ha : i.shiftAmount = none) :
    Inst.Agrees ⟨packUJ off rd op, addr, i⟩ := by
  have hne : i ≠ .ecall := by rintro rfl; cases hd
  have himm := immUJOf_packUJ off rd op (by simpa only [Bool.not_eq_true'] using heven)
  simp [Inst.Agrees, Inst.ShiftImm, Inst.type, Inst.rd, Inst.imm, Inst.opcode, hop, hs, hd, hi, ha, hne, himm]

theorem agrees_ecall : Inst.Agrees ⟨encode .ecall, addr, .ecall⟩ := by
  simp [Inst.Agrees, Inst.ShiftImm, Inst.type, Inst.opcode, encode, formatOf, Instr.srcs, Instr.dst, Instr.immediate,
    Instr.shiftAmount]

end Shapes

theorem agrees_encode {shamt6 : Bool} (addr : Word) (i : Instr) (hwf : i.wf shamt6 = true) : Inst.Agrees ⟨encode i, addr, i⟩ := by
  cases i with
  | lui | auipc => exact agrees_packU rfl rfl rfl rfl rfl
  | jal => exact agrees_packUJ rfl hwf rfl rfl rfl rfl
  | beq | bne | blt | bge | bltu | bgeu => exact agrees_packSB rfl hwf rfl rfl rfl rfl
  | sb | sh | sw | sd => exact agrees_packS rfl rfl rfl rfl rfl
  | jalr | lb | lh | lw | ld | lbu | lhu | lwu | addi | slti | sltiu | xori | ori | andi | addiw =>
    exact agrees_packI rfl (by decide) rfl rfl rfl rfl
  | slli | srli | srai => exact agrees_packI_shamt6 (by decide) rfl rfl rfl rfl
  | slliw | srliw | sraiw => exact agrees_packI_shamt5 (by decide) rfl rfl rfl rfl
  | add | sub | sll | slt | sltu | xor | srl | sra | or | and | mul | mulh | div | rem | addw | subw | sllw | srlw | sraw =>
    exact agrees_packR rfl rfl rfl rfl rfl
  | ecall => exact agrees_ecall

/-- Settles O7: a word that decodes is an encoding, whose record agrees shape by shape. -/
theorem recordAgreesWithOperands : Obligations.RecordAgreesWithOperands := by
  intro shamt6 w addr i h
  obtain ⟨hwf, hw⟩ := decode_eq_ok_iff.mp h
  have hagrees := agrees_encode addr i hwf
  rw [hw] at hagrees
  exact ⟨preDecode_of_decode h, hagrees⟩

end Sys2Proof

namespace Sys2Proof.Machine

/-! SUPPORT. The whole life of an instruction between two cycles, by what Execute computes (70_reset_and_hazards.md R423 to R427;
40_integer.md R150; 41_control.md R200): one equation each for a value, a jump, a branch and an error. -/

/-! ### What a computation says of its instruction -/

theorem exists_branch_of_isBranch {i : Instr} (h : i.isBranch = true) (cfg : Config) (pc a b : Word) :
    ∃ taken actual, (meaningOf i).compute cfg pc a b = .branch taken actual := by
  cases i with
  | beq | bne | blt | bge | bltu | bgeu => exact ⟨_, _, rfl⟩
  | _ => cases h

section Computed

variable {i : Instr} {cfg : Config} {pc a b : Word}

theorem isBranch_of_branch {taken : Bool} {actual : Word} (h : (meaningOf i).compute cfg pc a b = .branch taken actual) :
    i.isBranch = true := by
  cases i with
  | beq | bne | blt | bge | bltu | bgeu => rfl
  | jalr | div | rem =>
    simp only [meaningOf, jumpingTo, dividing] at h
    repeat' split at h
    all_goals cases h
  | _ => cases h

theorem isJalr_of_jump {target link : Word} (h : (meaningOf i).compute cfg pc a b = .jump target link) : i.isJalr = true := by
  cases i with
  | jalr => rfl
  | div | rem =>
    simp only [meaningOf, dividing] at h
    repeat' split at h
    all_goals cases h
  | _ => cases h

theorem not_isBranch_of_value {e c : Word} (h : (meaningOf i).compute cfg pc a b = .value e c) : i.isBranch = false :=
  Bool.eq_false_iff.mpr fun hb => by
    obtain ⟨_, _, hbranch⟩ := exists_branch_of_isBranch hb cfg pc a b
    cases h.symm.trans hbranch

theorem not_isBranch_of_jump {target link : Word} (h : (meaningOf i).compute cfg pc a b = .jump target link) : i.isBranch = false :=
  Bool.eq_false_iff.mpr fun hb => by
    obtain ⟨_, _, hbranch⟩ := exists_branch_of_isBranch hb cfg pc a b
    cases h.symm.trans hbranch

end Computed

theorem retire_commit {i : Instr} (hb : i.isBranch = false) (hcall : i ≠ .ecall) : (meaningOf i).retire = .commit := by
  cases hr : (meaningOf i).retire with
  | commit => rfl
  | branch => simp [(retire_branch_iff i).mp hr] at hb
  | syscall => exact absurd ((retire_syscall_iff i).mp hr) hcall

theorem mem_none_of_access {i : Instr} (h : i.access = none) : (meaningOf i).mem = .none := by rw [mem_eq, h]

theorem access_none_of_isBranch {i : Instr} (h : i.isBranch = true) : i.access = none := by
  cases i with
  | beq | bne | blt | bge | bltu | bgeu => rfl
  | _ => cases h

theorem access_none_of_isJalr {i : Instr} (h : i.isJalr = true) : i.access = none := by
  cases i with
  | jalr => rfl
  | _ => cases h

/-! ### One equation per computation -/

/-- What Execute computes for `i` at `F.cur.pc` from the registers of `s`. -/
def computed (i : Instr) (s : State) : Calc := (meaningOf i).compute s.cfg s.fCur.pc (readSrc s i.srcs.1) (readSrc s i.srcs.2)

theorem writeDst_countHazard (d : Option Reg) (v : Word) (s : State) : writeDst d v (countHazard s) = countHazard (writeDst d v s) := by
  rw [writeDst_eq, writeDst_eq d v s, writeDst_regs_congr (countHazard_regs s)]
  rfl

section Life

variable {i : Instr} {s : State}

/-- An instruction without access that computes a value commits it and goes where Fetch went. -/
theorem exec_of_value {v c : Word} (hs : s.Ready) (ha : i.access = none) (hcall : i ≠ .ecall) (h : computed i s = .value v c) :
    exec i s = .next ((writeDst i.dst v s).retire (nextFetch s s.fCur.pc i.fetchKind).next) := by
  have hretire := retire_commit (not_isBranch_of_value h) hcall
  rw [computed] at h
  rw [exec_between hs.between]
  simp [alone, executeOp, memoryOp, retireOp, h, mem_none_of_access ha, hretire, hs.running, State.retire]

/-- A jump links, goes to its target and counts a control hazard. -/
theorem exec_of_jump {target link : Word} (hs : s.Ready) (h : computed i s = .jump target link) :
    exec i s = .next (countHazard ((writeDst i.dst link s).retire target)) := by
  have hretire := retire_commit (not_isBranch_of_jump h) (ne_ecall_of_jump h)
  have hmem := mem_none_of_access (access_none_of_isJalr (isJalr_of_jump h))
  rw [computed] at h
  rw [exec_between hs.between]
  simp only [alone, executeOp, memoryOp, retireOp, h, hmem, hretire, writeDst_countHazard]
  simp [hs.running, State.retire, countHazard]

/-- A branch trains its entry and goes where its outcome says; a wrong guess counts a control hazard. -/
theorem exec_of_branch {taken : Bool} {actual : Word} (hs : s.Ready) (h : computed i s = .branch taken actual) :
    let nf := nextFetch s s.fCur.pc i.fetchKind
    let trained := updatePredictor s.fCur.pc taken s
    exec i s = .next (if taken = nf.predTaken then (countBranch true trained).retire nf.next
      else (countBranch false (countHazard trained)).retire actual) := by
  have hb := isBranch_of_branch h
  have hretire := (retire_branch_iff i).mpr hb
  have hmem := mem_none_of_access (access_none_of_isBranch hb)
  rw [computed] at h
  dsimp only
  rw [exec_between hs.between]
  by_cases hg : taken = (nextFetch s s.fCur.pc i.fetchKind).predTaken <;>
    simp [alone, executeOp, memoryOp, retireOp, h, hmem, hretire, hs.running, hg, State.retire, countBranch]

/-- An error of Execute leaves the machine as it was, but for its status. -/
theorem exec_of_error {k : FatalKind} (hs : s.Ready) (h : computed i s = .error k) : exec i s = .next (raise k s) := by
  rw [computed] at h
  rw [exec_between hs.between]
  simp only [alone, executeOp, h]

/-- What an instruction without access, other than ECALL, can leave (R150, R200). -/
theorem exec_cases (hs : s.Ready) (ha : i.access = none) (hcall : i ≠ .ecall) :
    (i.isBranch = false ∧ ∃ v next, exec i s = .next ((writeDst i.dst v s).retire next)) ∨
    (i.isJalr = true ∧ ∃ v next, exec i s = .next (countHazard ((writeDst i.dst v s).retire next))) ∨
    (i.isBranch = true ∧ ∃ taken next, exec i s = .next ((countBranch true (updatePredictor s.fCur.pc taken s)).retire next) ∨
      exec i s = .next ((countBranch false (countHazard (updatePredictor s.fCur.pc taken s))).retire next)) ∨
    ∃ k, exec i s = .next (raise k s) := by
  cases h : computed i s with
  | value v c => exact .inl ⟨not_isBranch_of_value h, v, _, exec_of_value hs ha hcall h⟩
  | jump target link => exact .inr (.inl ⟨isJalr_of_jump h, link, target, exec_of_jump hs h⟩)
  | branch taken actual =>
    have he := exec_of_branch hs h
    dsimp only at he
    split at he
    · exact .inr (.inr (.inl ⟨isBranch_of_branch h, taken, _, .inl he⟩))
    · exact .inr (.inr (.inl ⟨isBranch_of_branch h, taken, _, .inr he⟩))
  | error k => exact .inr (.inr (.inr ⟨k, exec_of_error hs h⟩))

end Life

theorem readReg_writeDst_of_ne {d : Option Reg} {r : Reg} (h : d ≠ some r) (v : Word) (s : State) :
    readReg (writeDst d v s) r = readReg s r :=
  Classical.byContradiction fun hne => h (readReg_writeDst_ne hne).1

/-- Settles O43: by what such an instruction can leave. An error of Execute is fatal, so it is not one of the outcomes. -/
theorem registerInstructionFrame : Obligations.RegisterInstructionFrame := by
  intro i s t hs ha hcall he ht
  rcases exec_cases hs ha hcall with ⟨hb, v, next, hx⟩ | ⟨hj, v, next, hx⟩ | ⟨hb, taken, next, hx | hx⟩ | ⟨k, hx⟩ <;>
    obtain rfl := Host.Outcome.next.inj (hx.symm.trans he)
  · exact ⟨fun r hr => readReg_writeDst_of_ne hr v s, by simp [State.view]⟩
  · exact ⟨fun r hr => readReg_writeDst_of_ne hr v s, by simp [State.view, hj]⟩
  · exact ⟨fun r _ => rfl, by simp [State.view, hb]⟩
  · exact ⟨fun r _ => rfl, by simp [State.view, hb]⟩
  · cases ht

end Sys2Proof.Machine

namespace Sys2Proof.Machine

/-! SUPPORT. The results of the integer instructions (40_integer.md R150 to R187): the model's words as the rules write them. -/

/-- An instruction that computes a value from registers, its address and its own fields completes with it in `rd` (R150). -/
theorem exec_computes {i : Instr} {s : State} {rd : Reg} {w v : Word} (hs : s.Ready) (hv : w = v)
    (h : computed i s = .value w 0 := by rfl) (ha : i.access = none := by rfl) (hd : i.dst = some rd := by rfl)
    (hk : i.fetchKind = .other := by rfl) : exec i s = .next (s.retireWith rd v (s.fCur.pc + 4)) := by
  have hcall : i ≠ .ecall := by rintro rfl; cases hd
  rw [exec_of_value hs ha hcall h, hd, hk, hv]
  rfl

/-- Settles O37: the results are the rules' own words. -/
theorem upperImmediateResults : Obligations.UpperImmediateResults :=
  fun _ _ _ hs => ⟨exec_computes hs rfl, exec_computes hs rfl⟩

/-! ### Shifts -/

theorem shiftLeft_eq_ofNat {n : Nat} (a : BitVec n) (k : Nat) : a <<< k = BitVec.ofNat n (a.toNat * 2 ^ k) :=
  BitVec.eq_of_toNat_eq (by simp [Nat.shiftLeft_eq])

theorem ushiftRight_eq_ofNat {n : Nat} (a : BitVec n) (k : Nat) : a >>> k = BitVec.ofNat n (a.toNat / 2 ^ k) := by
  have hlt : a.toNat / 2 ^ k < 2 ^ n := Nat.lt_of_le_of_lt (Nat.div_le_self ..) a.isLt
  exact BitVec.eq_of_toNat_eq (by simp [Nat.shiftRight_eq_div_pow, Nat.mod_eq_of_lt hlt])

theorem sshiftRight_eq_ofInt {n : Nat} (a : BitVec n) (k : Nat) : a.sshiftRight k = BitVec.ofInt n (a.toInt / 2 ^ k) := by
  rw [BitVec.sshiftRight_eq, Int.shiftRight_eq_div_pow]
  norm_cast

theorem amount6_eq (b : Word) : amount6 b = b.toNat % 64 := by simp [amount6]

theorem amount5_eq (b : Word) : amount5 b = b.toNat % 32 := by simp [amount5]

/-- Settles O38: all but the shifts are the rules' own words. -/
theorem opImmResults : Obligations.OpImmResults :=
  fun _ _ _ _ _ hs => ⟨exec_computes hs rfl, exec_computes hs rfl, exec_computes hs rfl, exec_computes hs rfl, exec_computes hs rfl,
    exec_computes hs rfl, exec_computes hs (shiftLeft_eq_ofNat ..), exec_computes hs (ushiftRight_eq_ofNat ..),
    exec_computes hs (sshiftRight_eq_ofInt ..)⟩

/-- Settles O39: all but the shifts are the rules' own words. -/
theorem opResults : Obligations.OpResults := by
  intro s rd rs1 rs2 hs a b done
  rw [← amount6_eq b]
  exact ⟨exec_computes hs rfl, exec_computes hs rfl, exec_computes hs (shiftLeft_eq_ofNat ..), exec_computes hs rfl,
    exec_computes hs rfl, exec_computes hs rfl, exec_computes hs (ushiftRight_eq_ofNat ..),
    exec_computes hs (sshiftRight_eq_ofInt ..), exec_computes hs rfl, exec_computes hs rfl⟩

/-! ### The 32-bit forms -/

theorem low32_eq_extractLsb' (v : Word) : low32 v = v.extractLsb' 0 32 := BitVec.setWidth_eq_extractLsb' (by decide)

theorem low32_ofInt (z : Int) : low32 (BitVec.ofInt 64 z) = BitVec.ofInt 32 z := by
  apply BitVec.eq_of_toNat_eq
  simp only [low32, BitVec.toNat_setWidth, BitVec.toNat_ofInt]
  omega

theorem low32_immI (imm : BitVec 12) : low32 (immI imm) = imm.signExtend 32 := low32_ofInt imm.toInt

theorem low32_add (a b : Word) : low32 (a + b) = low32 a + low32 b := BitVec.setWidth_add a b (by decide)

theorem low32_sub (a b : Word) : low32 (a - b) = low32 a - low32 b := by
  rw [BitVec.sub_eq_add_neg, BitVec.sub_eq_add_neg, low32_add]
  exact congrArg (low32 a + ·) (BitVec.setWidth_neg_of_le (by decide))

/-- The 64-bit arithmetic shift of a sign-extended word has the 32-bit shift in its low half (R176, R181). -/
theorem low32_sshiftRight_sext32 (a : BitVec 32) (k : Nat) :
    low32 ((sext32 a).sshiftRight k) = BitVec.ofInt 32 (a.toInt / 2 ^ k) := by
  rw [sshiftRight_eq_ofInt, low32_ofInt, sext32, BitVec.toInt_signExtend_of_le (by decide)]

/-- Settles O40: each 32-bit result of the rules is the low half of the model's, which is `sext32` of it. -/
theorem wordResults : Obligations.WordResults := by
  intro s rd rs1 rs2 imm sh hs
  simp only [← low32_eq_extractLsb', ← amount5_eq]
  exact ⟨exec_computes hs (congrArg sext32 ((low32_add ..).trans (congrArg _ (low32_immI imm)))),
    exec_computes hs (congrArg sext32 (shiftLeft_eq_ofNat ..)), exec_computes hs (congrArg sext32 (ushiftRight_eq_ofNat ..)),
    exec_computes hs (congrArg sext32 (low32_sshiftRight_sext32 ..)),
    exec_computes hs (congrArg sext32 (low32_add ..)), exec_computes hs (congrArg sext32 (low32_sub ..)),
    exec_computes hs (congrArg sext32 (shiftLeft_eq_ofNat ..)), exec_computes hs (congrArg sext32 (ushiftRight_eq_ofNat ..)),
    exec_computes hs (congrArg sext32 (low32_sshiftRight_sext32 ..))⟩

/-! ### Multiply and divide -/

theorem mul_eq_ofInt (a b : Word) : a * b = BitVec.ofInt 64 (a.toInt * b.toInt) := by
  rw [BitVec.ofInt_mul, BitVec.ofInt_toInt, BitVec.ofInt_toInt]

theorem extractLsb'_high_ofInt (p : Int) : (BitVec.ofInt 128 p).extractLsb' 64 64 = BitVec.ofInt 64 (p / 2 ^ 64) := by
  apply BitVec.eq_of_toNat_eq
  simp only [BitVec.extractLsb'_toNat, BitVec.toNat_ofInt, Nat.shiftRight_eq_div_pow]
  omega

theorem remSigned_eq (a b : Word) : remSigned a b = BitVec.ofInt 64 (a.toInt.tmod b.toInt) := by
  rw [remSigned, Int.tmod_def, Int.mul_comm b.toInt]

theorem toInt_eq_min_iff (a : Word) : a.toInt = -2 ^ 63 ↔ a = 0x8000000000000000 := by rw [← BitVec.toInt_inj]; rfl

theorem toInt_eq_neg_one_iff (b : Word) : b.toInt = -1 ↔ b = 0xFFFFFFFFFFFFFFFF := by rw [← BitVec.toInt_inj]; rfl

theorem isDivCorner_iff (a b : Word) : isDivCorner a b = true ↔ b = 0 ∨ a.toInt = -2 ^ 63 ∧ b.toInt = -1 := by
  simp only [isDivCorner, toInt_eq_min_iff, toInt_eq_neg_one_iff, Bool.or_eq_true, Bool.and_eq_true, beq_iff_eq]

section Dividing

variable {f corner : Word → Word → Word} {cfg : Config} {pc a b : Word}

theorem dividing_of_not_corner (h : isDivCorner a b = false) : (dividing f corner).compute cfg pc a b = .value (f a b) 0 := by
  simp [dividing, h]

theorem dividing_of_fault (h : isDivCorner a b = true) (hcfg : cfg.divCorner = .fault) :
    (dividing f corner).compute cfg pc a b = .error (.divFault pc a b) := by
  simp [dividing, h, hcfg]

theorem dividing_of_riscv (h : isDivCorner a b = true) (hcfg : cfg.divCorner = .riscv) :
    (dividing f corner).compute cfg pc a b = .value (corner a b) 0 := by
  simp [dividing, h, hcfg]

end Dividing

/-- Settles O41: the narrowed exact results, and operands outside the corners are not what `dividing` treats apart. -/
theorem multiplyDivideResults : Obligations.MultiplyDivideResults := by
  intro s rd rs1 rs2 hs a b done
  refine ⟨exec_computes hs (mul_eq_ofInt ..), exec_computes hs (extractLsb'_high_ofInt _), fun hb hoverflow => ?_⟩
  have hcorner : isDivCorner (readReg s rs1) (readReg s rs2) = false :=
    Bool.eq_false_iff.mpr fun h => ((isDivCorner_iff ..).mp h).elim (fun h0 => hb (by simp [b, h0])) hoverflow
  exact ⟨exec_computes hs rfl (dividing_of_not_corner hcorner), exec_computes hs (remSigned_eq ..) (dividing_of_not_corner hcorner)⟩

/-- Settles O42: both corners raise under `fault`; under `riscv` each has its own result. -/
theorem divisionCorners : Obligations.DivisionCorners := by
  intro s rd rs1 rs2 hs a b done
  refine ⟨fun hcfg h => ?_, fun hcfg => ⟨fun hb => ?_, fun ha hb => ?_⟩⟩
  · have hcorner := (isDivCorner_iff a b).mpr h
    exact ⟨exec_of_error hs (dividing_of_fault hcorner hcfg), exec_of_error hs (dividing_of_fault hcorner hcfg)⟩
  · have hcorner := (isDivCorner_iff a b).mpr (.inl hb)
    exact ⟨exec_computes hs (if_pos hb) (dividing_of_riscv hcorner hcfg), exec_computes hs (if_pos hb) (dividing_of_riscv hcorner hcfg)⟩
  · have hcorner := (isDivCorner_iff a b).mpr (.inr ⟨ha, hb⟩)
    have hne : b ≠ 0 := fun h0 => by simp [h0] at hb
    exact ⟨exec_computes hs ((if_neg hne).trans ((toInt_eq_min_iff a).mp ha)) (dividing_of_riscv hcorner hcfg),
      exec_computes hs (if_neg hne) (dividing_of_riscv hcorner hcfg)⟩

end Sys2Proof.Machine

namespace Sys2Proof.Machine

/-! SUPPORT. The stages of an instruction, one after the other, do what its whole life does (log entry 6): what a stage does to the
registers, the storage, the predictor, the host and the counters does not depend on the pipeline registers. -/

/-- `s` with the pipeline registers and the signals of `p`. -/
def State.piped (s p : State) : State :=
  { s with fCur := p.fCur, fNxt := p.fNxt, dCur := p.dCur, dNxt := p.dNxt, eCur := p.eCur, eNxt := p.eNxt, mCur := p.mCur,
           mNxt := p.mNxt, wCur := p.wCur, wNxt := p.wNxt, sig := p.sig }

section Operations

variable (s p : State)

@[simp] theorem piped_cfg : (s.piped p).cfg = s.cfg := rfl
@[simp] theorem piped_storage : (s.piped p).storage = s.storage := rfl
@[simp] theorem piped_status : (s.piped p).status = s.status := rfl

theorem report_piped (cost : Nat) : report cost (s.piped p) = s.piped (report cost p) := rfl

theorem scanStr_piped (n : Nat) (v : Word) (acc : List Byte) : scanStr (s.piped p) n v acc = scanStr s n v acc := by
  induction n generalizing v acc with
  | zero => rfl
  | succ n ih => simp only [scanStr, ih]; rfl

theorem writeReg_piped (r : Reg) (v : Word) : writeReg r v (s.piped p) = (writeReg r v s).piped p := by
  unfold writeReg; split <;> rfl

theorem writeDst_piped (d : Option Reg) (v : Word) : writeDst d v (s.piped p) = (writeDst d v s).piped p := by
  cases d with
  | none => rfl
  | some r => exact writeReg_piped s p r v

theorem nextInput_piped : nextInput (s.piped p) = ((nextInput s).1, (nextInput s).2.piped p) := by
  cases h : s.input <;> simp [nextInput, h, State.piped]

theorem syscall_piped (pc a0 a7 : Word) : syscall pc a0 a7 (s.piped p) = (syscall pc a0 a7 s).piped p := by
  have hstr : sysPrintStr a0 (s.piped p) = (sysPrintStr a0 s).piped p := by
    simp only [sysPrintStr, scanStr_piped, piped_cfg]
    cases scanStr s s.cfg.maxStrLen a0 [] <;> rfl
  have hread : sysRead (s.piped p) = (sysRead s).piped p := by
    simp only [sysRead, nextInput_piped, writeReg_piped]
  unfold syscall
  repeat' split
  · rfl
  · rfl
  · exact hstr
  · exact hread
  · exact hread
  · rfl
  · rfl

theorem retireOp_piped (i : Instr) (m : Meaning) (pc e c : Word) (ok : Bool) :
    retireOp i m pc e c ok (s.piped p) = (retireOp i m pc e c ok s).piped p := by
  cases h : m.retire with
  | commit => simp only [retireOp, h, writeDst_piped]; rfl
  | branch => simp only [retireOp, h]; rfl
  | syscall =>
    simp only [retireOp, h, syscall_piped]
    rw [apply_ite (State.piped · p)]; rfl

/-- Execute's operation, with the pipeline registers of another machine. -/
def Executed.piped (p : State) : Executed → Executed
  | .done s e c ok target => .done (s.piped p) e c ok target
  | .raised s => .raised (s.piped p)

theorem executeOp_piped (m : Meaning) (pc a b : Word) (guess : Bool) :
    executeOp m pc a b guess (s.piped p) = (executeOp m pc a b guess s).piped p := by
  simp only [executeOp, piped_cfg]
  split
  · rfl
  · split <;> rfl
  · rfl
  · rfl

/-- What an access gives, with the pipeline registers of another machine. -/
def AccessResult.piped (p : State) : AccessResult → AccessResult
  | .ok s v t => .ok (s.piped p) v t
  | .raised s => .raised (s.piped p)

theorem access_piped (stage : Stage) (v d : Word) (n : Nat) (rd : Bool) :
    access stage (s.piped p) v n rd d = (access stage s v n rd d).piped p := by
  have htr : translate (s.piped p) v n = translate s v n := rfl
  simp only [access, htr, piped_cfg, piped_storage]
  split
  · rfl
  · split <;> rfl

/-- What MemoryAccess leaves, with the pipeline registers of another machine. -/
def Accessed.piped (p : State) : Accessed → Accessed
  | .done s v t => .done (s.piped p) v t
  | .raised s => .raised (s.piped p)

theorem memoryOp_piped (m : Meaning) (e c : Word) : memoryOp m e c (s.piped p) = (memoryOp m e c s).piped p := by
  unfold memoryOp memRead memWrite
  split
  · rfl
  · rw [access_piped]
    cases access .memory s e _ true 0 <;> rfl
  · rw [access_piped]
    cases access .memory s e _ false c <;> rfl

end Operations

/-! ### What an operation leaves of the status -/

/-- The status is `st` where Execute goes on, and fatal where it raised. -/
def Executed.Keeps (st : Status) : Executed → Prop
  | .done s _ _ _ _ => s.status = st
  | .raised s => s.status.isFatal = true

theorem executeOp_keeps (m : Meaning) (pc a b : Word) (guess : Bool) (s : State) : (executeOp m pc a b guess s).Keeps s.status := by
  rcases executeOp_cases (rfl : executeOp m pc a b guess s = _) with
    ⟨_, _, -, h⟩ | ⟨_, _, -, ⟨-, h⟩ | ⟨-, h⟩⟩ | ⟨_, _, -, h⟩ | ⟨_, -, h⟩ <;> rw [h] <;> rfl

/-- The status is `st` where MemoryAccess goes on, and fatal where it raised. -/
def Accessed.Keeps (st : Status) : Accessed → Prop
  | .done s _ _ => s.status = st
  | .raised s => s.status.isFatal = true

theorem memoryOp_keeps (m : Meaning) (e c : Word) (s : State) : (memoryOp m e c s).Keeps s.status := by
  rcases memoryOp_cases (rfl : memoryOp m e c s = _) with
    ⟨-, h⟩ | ⟨_, _, s', v, t, -, ha, h⟩ | ⟨_, _, s', -, ha, h⟩ | ⟨_, s', v, t, -, ha, h⟩ | ⟨_, s', -, ha, h⟩ <;> rw [h]
  · rfl
  · obtain ⟨st, rfl, -⟩ := access_ok ha; rfl
  · obtain ⟨k, st, rfl, -⟩ := access_raised ha; rfl
  · obtain ⟨st, rfl, -⟩ := access_ok ha; rfl
  · obtain ⟨k, st, rfl, -⟩ := access_raised ha; rfl

/-! ### The parts of the stages -/

section Parts

variable {i : Instr} {m : Meaning} {s s' p : State}

/-- Decode leaves the operands in `E.nxt` and changes nothing but pipeline registers. -/
theorem decodePart_issue (i : Instr) (m : Meaning) (d : DSlot) (s : State) :
    ∃ q e, decodePart i m (atPhase .decode (issue i d s)) = s.piped q ∧ q.eNxt.slot = some e ∧
      e.pc = d.pc ∧ e.op1 = readSrc s i.srcs.1 ∧ e.op2 = readSrc s i.srcs.2 ∧ e.predTaken = d.predTaken := by
  refine ⟨decodePart i m (atPhase .decode (issue i d s)),
    { pc := d.pc, inst := { word := d.word, addr := d.pc, op := i }, op1 := readSrc s i.srcs.1, op2 := readSrc s i.srcs.2,
      predTaken := d.predTaken, predNext := d.predNext }, ?_⟩
  unfold decodePart
  cases m.issue <;> exact ⟨rfl, rfl, rfl, rfl, rfl, rfl⟩

theorem executePart_of_raised {e : ESlot} (he : p.eCur.slot = some e)
    (h : executeOp m e.pc e.op1 e.op2 e.predTaken s = .raised s') : ∃ q, executePart i m (s.piped p) = s'.piped q := by
  have he : (s.piped p).eCur.slot = some e := he
  simp only [executePart, he, report_piped, executeOp_piped, h]
  exact ⟨_, rfl⟩

theorem executePart_of_done {e : ESlot} {valE valC : Word} {ok : Bool} {target : Option Word} (he : p.eCur.slot = some e)
    (h : executeOp m e.pc e.op1 e.op2 e.predTaken s = .done s' valE valC ok target) :
    ∃ q, executePart i m (s.piped p) = s'.piped q ∧ q.mNxt.slot = some ⟨e.pc, e.inst, valE, valC, ok⟩ := by
  have he : (s.piped p).eCur.slot = some e := he
  refine ⟨executePart i m (s.piped p), ?_⟩
  simp only [executePart, he, report_piped, executeOp_piped, h]
  cases target <;> exact ⟨rfl, rfl⟩

theorem memoryPart_of_raised {x : MSlot} (hx : p.mCur.slot = some x) (h : memoryOp m x.valE x.valC s = .raised s') :
    memoryPart m (s.piped p) = s'.piped p := by
  have hx : (s.piped p).mCur.slot = some x := hx
  simp only [memoryPart, hx, memoryOp_piped, h]
  rfl

theorem memoryPart_of_done {x : MSlot} {res : Word} {time : Nat} (hx : p.mCur.slot = some x)
    (h : memoryOp m x.valE x.valC s = .done s' res time) :
    ∃ q, memoryPart m (s.piped p) = s'.piped q ∧ q.wNxt.slot = some { x with valE := res } := by
  have hx : (s.piped p).mCur.slot = some x := hx
  refine ⟨memoryPart m (s.piped p), ?_⟩
  simp only [memoryPart, hx, memoryOp_piped, h]
  exact ⟨rfl, rfl⟩

theorem writeBackPart_piped {x : MSlot} (hx : p.wCur.slot = some x) :
    ∃ q, writeBackPart i m (s.piped p) = (retireOp i m x.pc x.valE x.valC x.predOK s).piped q := by
  have hx : (s.piped p).wCur.slot = some x := hx
  refine ⟨writeBackPart i m (s.piped p), ?_⟩
  simp only [writeBackPart, hx, retireOp_piped]
  split <;> rfl

end Parts

/-! ### The whole life -/

/-- The machine that enters Execute with what Decode produced. -/
def State.intoExecute (s : State) : State := atPhase .execute { s with eCur := s.eNxt }

/-- The machine that enters MemoryAccess with what Execute produced. -/
def State.intoMemory (s : State) : State := atPhase .memory { s with mCur := s.mNxt }

/-- The machine that enters WriteBack with what MemoryAccess produced. -/
def State.intoWriteBack (s : State) : State := atPhase .writeBack { s with wCur := s.wNxt }

theorem exec_intoExecute (i : Instr) (s p : State) :
    exec i (s.piped p).intoExecute = .next (executePart i (meaningOf i) (s.piped p.intoExecute)) := exec_execute i _

theorem exec_intoMemory (i : Instr) (s p : State) :
    exec i (s.piped p).intoMemory = .next (memoryPart (meaningOf i) (s.piped p.intoMemory)) := exec_memory i _

theorem exec_intoWriteBack (i : Instr) (s p : State) :
    exec i (s.piped p).intoWriteBack = .next (writeBackPart i (meaningOf i) (s.piped p.intoWriteBack)) := exec_writeBack i _

theorem isFatal_of_running {s : State} (h : s.status = .running) : s.status.isFatal = false := by rw [h]; rfl

/-- The stages from MemoryAccess on. -/
def lateStages (i : Instr) (s : State) : Host.Outcome State Fault Refusal :=
  thenStage (exec i s.intoMemory) fun s' => exec i s'.intoWriteBack

/-- All four stages, one after the other. -/
def stages (i : Instr) (d : DSlot) (s : State) : Host.Outcome State Fault Refusal :=
  thenStage (exec i (atPhase .decode (issue i d s))) fun s1 => thenStage (exec i s1.intoExecute) fun s2 => lateStages i s2

/-- What is left of the whole life when Execute has left `x`. -/
def lateLife (i : Instr) (x : MSlot) (s : State) : State :=
  match memoryOp (meaningOf i) x.valE x.valC s with
  | .raised s' => s'
  | .done s' res _ => retireOp i (meaningOf i) x.pc res x.valC x.predOK s'

theorem lateStages_piped (i : Instr) {s p : State} {x : MSlot} (hs : s.status = .running) (hx : p.mNxt.slot = some x) :
    ∃ q, lateStages i (s.piped p) = .next ((lateLife i x s).piped q) := by
  have hkeeps := memoryOp_keeps (meaningOf i) x.valE x.valC s
  rw [lateStages, lateLife, exec_intoMemory]
  cases h : memoryOp (meaningOf i) x.valE x.valC s with
  | raised s' =>
    rw [h] at hkeeps
    rw [memoryPart_of_raised hx h, thenStage_ends (s := s'.piped p.intoMemory) hkeeps]
    exact ⟨{ p.intoMemory with sig := Signals.idle }, rfl⟩
  | done s' res time =>
    rw [h, hs] at hkeeps
    obtain ⟨q, hpart, hq⟩ := memoryPart_of_done (p := p.intoMemory) hx h
    obtain ⟨q', hback⟩ := writeBackPart_piped (i := i) (m := meaningOf i) (s := s') (p := q.intoWriteBack) hq
    rw [hpart, thenStage_goes_on (s := s'.piped q) (isFatal_of_running hkeeps), exec_intoWriteBack, hback]
    exact ⟨q', rfl⟩

section Whole

variable {i : Instr} {s s' : State}

/-- Execute's operation in the whole life of `i`. -/
def executeAlone (i : Instr) (s : State) : Executed :=
  executeOp (meaningOf i) s.fCur.pc (readSrc s i.srcs.1) (readSrc s i.srcs.2) (nextFetch s s.fCur.pc i.fetchKind).predTaken s

theorem alone_of_raised (h : executeAlone i s = .raised s') : alone i (meaningOf i) s = s' := by
  rw [executeAlone] at h
  simp only [alone, h]

/-- When Execute goes on, the whole life is what is left of it, but for the next address. -/
theorem alone_of_done {valE valC : Word} {ok : Bool} {target : Option Word} (h : executeAlone i s = .done s' valE valC ok target)
    (inst : Inst) : ∃ q, lateLife i ⟨s.fCur.pc, inst, valE, valC, ok⟩ s' = (alone i (meaningOf i) s).piped q := by
  rw [executeAlone] at h
  refine ⟨lateLife i ⟨s.fCur.pc, inst, valE, valC, ok⟩ s', ?_⟩
  simp only [alone, h, lateLife]
  cases memoryOp (meaningOf i) valE valC s' with
  | raised => rfl
  | done => dsimp only; split <;> rfl

/-- The stages leave what the whole life leaves, but for the pipeline registers. -/
theorem stages_eq_alone {d : DSlot} (hs : s.status = .running) (hpc : d.pc = s.fCur.pc)
    (hguess : d.predTaken = (nextFetch s s.fCur.pc i.fetchKind).predTaken) :
    ∃ q, stages i d s = .next ((alone i (meaningOf i) s).piped q) := by
  obtain ⟨p, e, hdecode, he, hepc, hop1, hop2, heguess⟩ := decodePart_issue i (meaningOf i) d s
  have hsame : executeOp (meaningOf i) e.pc e.op1 e.op2 e.predTaken s = executeAlone i s := by
    rw [hepc, hop1, hop2, heguess, hpc, hguess]; rfl
  have hkeeps : (executeAlone i s).Keeps s.status := executeOp_keeps ..
  rw [stages, exec_decode, hdecode, thenStage_goes_on (s := s.piped p) (isFatal_of_running hs), exec_intoExecute]
  cases h : executeAlone i s with
  | raised s' =>
    rw [h] at hkeeps
    obtain ⟨q, hpart⟩ := executePart_of_raised (i := i) (p := p.intoExecute) he (hsame.trans h)
    rw [hpart, thenStage_ends (s := s'.piped q) hkeeps, alone_of_raised h]
    exact ⟨{ q with sig := Signals.idle }, rfl⟩
  | done s' valE valC ok target =>
    rw [h, hs] at hkeeps
    obtain ⟨q, hpart, hq⟩ := executePart_of_done (i := i) (p := p.intoExecute) he (hsame.trans h)
    obtain ⟨r, hlate⟩ := lateStages_piped i hkeeps hq
    obtain ⟨r', halone⟩ := alone_of_done h e.inst
    rw [hpart, thenStage_goes_on (s := s'.piped q) (isFatal_of_running hkeeps), hlate, hepc, hpc, halone]
    exact ⟨r, rfl⟩

end Whole

/-- Settles O34: the stages leave the whole life's machine with other pipeline registers, whose other fields are the same. -/
theorem stagesMakeTheWholeLife : Obligations.StagesMakeTheWholeLife := by
  intro i s t d hs hpc hguess ht
  obtain ⟨q, hstages⟩ := stages_eq_alone hs.running hpc hguess
  obtain rfl : (alone i (meaningOf i) s).piped q = t := Host.Outcome.next.inj (hstages.symm.trans ht)
  exact ⟨_, exec_between hs.between, rfl, rfl, rfl, rfl, rfl, rfl, rfl, rfl, rfl, rfl, rfl⟩

end Sys2Proof.Machine

namespace Sys2Proof.Machine

/-! SUPPORT. The control transfers between two cycles (41_control.md R200 to R208): the model's outcomes and targets as the rules
write them. -/

/-! ### Conditional branches -/

theorem condEq_eq (a b : Word) : condEq a b = decide (a = b) := beq_eq_decide ..

theorem condNe_eq (a b : Word) : condNe a b = decide (a ≠ b) := by rw [decide_not, ← condEq_eq]; rfl

theorem condGe_eq (a b : Word) : condGe a b = !a.slt b := by simp [condGe, BitVec.slt, ← decide_not]

theorem condGeu_eq (a b : Word) : condGeu a b = !a.ult b := by simp [condGeu, BitVec.ult, ← decide_not]

section Branch

variable {i : Instr} {pc a b : Word}

/-- A branch's outcome and address in Execute are those of its rule (R201 to R206). -/
theorem branchOutcome_of_branch {cfg : Config} {taken : Bool} {actual : Word}
    (h : (meaningOf i).compute cfg pc a b = .branch taken actual) : branchOutcome pc a b i = some (taken, actual) := by
  have hb := isBranch_of_branch h
  cases i with
  | beq | bne | bge | bgeu =>
    obtain ⟨rfl, rfl⟩ := Calc.branch.inj h
    simp only [branchOutcome, condEq_eq, condNe_eq, condGe_eq, condGeu_eq, decide_eq_true_eq, Bool.not_eq_true',
      ← Bool.not_eq_true, ite_not, immSB]
  | blt | bltu =>
    obtain ⟨rfl, rfl⟩ := Calc.branch.inj h
    rfl
  | _ => cases hb

/-- A branch goes to its target or past itself (R200), the same target that Fetch may go to (R412). -/
theorem exists_target_of_isBranch (hb : i.isBranch = true) (cfg : Config) (pc a b : Word) :
    ∃ taken off, i.fetchKind = .branch off ∧
      (meaningOf i).compute cfg pc a b = .branch taken (if taken then pc + immSB off else pc + 4) := by
  cases i with
  | beq | bne | blt | bge | bltu | bgeu => exact ⟨_, _, rfl, rfl⟩
  | _ => cases hb

end Branch

theorem bhtIndex_eq (cfg : Config) (pc : Word) : bhtIndex cfg pc = pc.toNat / 4 % cfg.tableSize := by
  rw [bhtIndex, BitVec.toNat_ushiftRight, Nat.shiftRight_eq_div_pow]

/-- Settles O44: a right guess has gone where the outcome says, and a wrong one is redirected there. -/
theorem branchResults : Obligations.BranchResults := by
  intro i s hs hb
  obtain ⟨taken, off, hkind, hcomputed⟩ :=
    exists_target_of_isBranch hb s.cfg s.fCur.pc (readSrc s i.srcs.1) (readSrc s i.srcs.2)
  refine ⟨taken, _, branchOutcome_of_branch hcomputed, fun htaken => by simp [htaken], ?_⟩
  rw [exec_of_branch hs hcomputed, hkind, ← bhtIndex_eq]
  by_cases hright : taken = predict s s.fCur.pc <;>
    simp [nextFetch, hright, updatePredictor, bhtEntry, countBranch, countHazard, State.retire]

/-! ### Jumps -/

theorem getLsbD_zero_eq (t : Word) : t.getLsbD 0 = decide (t.toNat % 2 = 1) := Nat.testBit_zero t.toNat

/-- Clearing bit 0 of an odd address (R208). -/
theorem and_not_one_of_odd {t : Word} (h : t.toNat % 2 = 1) : t &&& ~~~(1 : Word) = t - 1 := by
  have hmask : ~~~(1 : Word) = BitVec.allOnes 64 <<< 1 := by decide
  have hone : (1 : Word).toNat = 1 := by decide
  rw [hmask, ← BitVec.shiftLeft_ushiftRight]
  apply BitVec.eq_of_toNat_eq
  simp only [BitVec.toNat_shiftLeft, BitVec.toNat_ushiftRight, BitVec.toNat_sub, hone, Nat.shiftLeft_eq, Nat.shiftRight_eq_div_pow]
  omega

section Jalr

variable {cfg : Config} {pc a b : Word} {imm : BitVec 12}

theorem jumpingTo_even (h : (a + immI imm).toNat % 2 = 0) :
    (jumpingTo imm).compute cfg pc a b = .jump (a + immI imm) (pc + 4) := by
  simp only [jumpingTo, getLsbD_zero_eq, h, zero_ne_one, decide_false, Bool.false_eq_true, if_false]

theorem jumpingTo_odd_clear (h : (a + immI imm).toNat % 2 = 1) (hcfg : cfg.jalrOdd = .clear) :
    (jumpingTo imm).compute cfg pc a b = .jump (a + immI imm - 1) (pc + 4) := by
  simp only [jumpingTo, getLsbD_zero_eq, h, hcfg, decide_true, if_true, and_not_one_of_odd h]

theorem jumpingTo_odd_fault (h : (a + immI imm).toNat % 2 = 1) (hcfg : cfg.jalrOdd = .fault) :
    (jumpingTo imm).compute cfg pc a b = .error (.jalrOddTarget pc (a + immI imm)) := by
  simp only [jumpingTo, getLsbD_zero_eq, h, hcfg, decide_true, if_true]

end Jalr

/-- Settles O45: JAL commits its link and goes where Fetch went; JALR jumps to its target, or raises. -/
theorem jumpResults : Obligations.JumpResults :=
  fun _ _ _ _ _ hs => ⟨exec_of_value hs rfl nofun rfl, fun heven => exec_of_jump hs (jumpingTo_even heven),
    fun hodd hcfg => exec_of_jump hs (jumpingTo_odd_clear hodd hcfg),
    fun hodd hcfg => exec_of_error hs (jumpingTo_odd_fault hodd hcfg)⟩

end Sys2Proof.Machine

namespace Sys2Proof.Machine

/-! SUPPORT and PROOF. The loads and stores between two cycles (42_load_store.md R230 to R241): an access inside one line and inside memory
is served, and its instruction completes with what the access answers. -/

/-! ### An access that is served (R93, R94, R97) -/

/-- What an access of `n` bytes at `v` needs to be served at `p`: a coherent storage that raises for no prefetch, and a translated
address inside one line and inside memory. -/
structure Accessible (s : State) (v : Word) (n p : Nat) : Prop where
  storage : CoherentInside s
  linesDivide : s.cfg.linesDivide
  prefetchSafe : s.cfg.prefetchSafe
  translated : translate s v n = .ok p
  inLine : s.cfg.inLine p n
  inMemory : p + n ≤ s.cfg.physMemSize
  bytes : 0 < n

section Access

variable {s : State} {v : Word} {n p : Nat}

/-- The access makes its request, which is served. -/
theorem access_served (h : Accessible s v n p) (stage : Stage) (rd : Bool) (d : Word) :
    ∃ st buf hit t, access stage s v n rd d = .ok { s with storage := st } (valueOf buf) t ∧
      handleTop s.cfg ⟨p, n, rd, if rd then [] else bytesOf n d, false⟩ s.storage = .ok st buf hit t := by
  obtain ⟨st, buf, hit, t, hreq⟩ := requestsInsideMemorySucceed s.cfg s.storage ⟨p, n, rd, if rd then [] else bytesOf n d, false⟩
    h.storage.admitted h.storage.sound h.storage.coherent h.linesDivide h.prefetchSafe h.bytes (fun hrd => by simp only at hrd; simp [hrd])
    h.inLine h.inMemory
  exact ⟨st, buf, hit, t, by simp only [access, h.translated, hreq], hreq⟩

/-- A load reads the bytes of the view and leaves the view as it is. -/
theorem memRead_answersView (h : Accessible s v n p) :
    ∃ st t, memRead s v n = .ok { s with storage := st } (valueOf ((List.range n).map fun k => s.view (p + k))) t ∧
      ∀ q, st.view s.cfg q = s.view q := by
  obtain ⟨st, buf, hit, t, hacc, hreq⟩ := access_served h .memory true 0
  obtain ⟨rfl, hview, -⟩ := readsReturnTheView _ _ _ _ _ _ _ h.storage.admitted h.storage.sound h.storage.coherent rfl hreq
  exact ⟨st, t, hacc, hview⟩

/-- A store leaves the low bytes of its operand in the view, and nothing else. -/
theorem memWrite_changesView (h : Accessible s v n p) (d : Word) :
    ∃ st w t, memWrite s v n d = .ok { s with storage := st } w t ∧
      ∀ q, st.view s.cfg q = if p ≤ q ∧ q < p + n then d.extractLsb' (8 * (q - p)) 8 else s.view q := by
  obtain ⟨st, buf, hit, t, hacc, hreq⟩ := access_served h .memory false d
  obtain ⟨hview, -⟩ := writesChangeTheirBytesOnly _ _ _ _ _ _ _ h.storage.admitted h.storage.sound h.storage.coherent rfl
    (length_bytesOf n d) hreq
  refine ⟨st, _, t, hacc, fun q => (hview q).trans (if_ctx_congr Iff.rfl (fun hq => ?_) fun _ => rfl)⟩
  have hlt : q - p < (bytesOf n d).length := by rw [length_bytesOf]; omega
  rw [if_neg (by decide), List.getD_eq_getElem _ _ hlt, getElem_bytesOf]

end Access

/-! ### The loaded value (R230) -/

/-- `extend` reads a number of `n` bytes as its two's complement or unsigned value. -/
theorem extend_eq_ofInt {n : Nat} {v : Word} (hn : 0 < n) (hv : v.toNat < 2 ^ (8 * n)) (signed : Bool) :
    extend n signed v = BitVec.ofInt 64 (if signed then signedOf n v.toNat else (v.toNat : Int)) := by
  have hlow : (v.setWidth (8 * n)).toNat = v.toNat := by rw [BitVec.toNat_setWidth, Nat.mod_eq_of_lt hv]
  cases signed with
  | false => calc (v.setWidth (8 * n)).setWidth 64
      _ = BitVec.ofNat 64 (v.setWidth (8 * n)).toNat := (BitVec.ofNat_toNat 64 _).symm
      _ = BitVec.ofInt 64 (v.toNat : Int) := by rw [hlow, BitVec.ofInt_natCast]
  | true =>
    have hhalf : 2 ^ (8 * n) = 2 * 2 ^ (8 * n - 1) := by rw [← Nat.pow_succ']; congr 1; omega
    have hint : (v.setWidth (8 * n)).toInt = signedOf n v.toNat := by
      rw [BitVec.toInt_eq_toNat_cond, hlow, signedOf]
      exact if_congr (by omega) rfl (by simp)
    exact congrArg (BitVec.ofInt 64) hint

/-- The value of the bytes loaded, extended. -/
theorem extend_valueOf (bs : List Byte) (hpos : 0 < bs.length) (hle : bs.length ≤ 8) (signed : Bool) :
    extend bs.length signed (valueOf bs) = BitVec.ofInt 64 (if signed then signedOf bs.length (leNat bs) else (leNat bs : Int)) := by
  have hv := toNat_valueOf bs hle
  rw [extend_eq_ofInt hpos (hv ▸ leNat_lt bs), hv]

/-! ### The whole life of a load and of a store -/

/-- An instruction whose access is served commits what MemoryAccess left and goes where Fetch went. -/
theorem exec_of_accessed {i : Instr} {s s' : State} {v c res : Word} {t : Nat} (hs : s.Ready) (h : computed i s = .value v c)
    (hmem : memoryOp (meaningOf i) v c s = .done s' res t) (hretire : (meaningOf i).retire = .commit) :
    exec i s = .next ((writeDst i.dst res s').retire (nextFetch s s.fCur.pc i.fetchKind).next) := by
  have hrun : s'.status = .running := by
    have hkeeps := memoryOp_keeps (meaningOf i) v c s
    rw [hmem, hs.running] at hkeeps
    exact hkeeps
  rw [computed] at h
  rw [exec_between hs.between]
  simp [alone, executeOp, retireOp, h, hmem, hretire, hrun, State.retire]

/-- A load commits the extension of what it read (R230). -/
theorem exec_of_load {i : Instr} {s s' : State} {n : Nat} {signed : Bool} {imm : BitVec 12} {rd rs1 : Reg} {v : Word} {t : Nat}
    (hs : s.Ready) (hi : meaningOf i = loading n signed imm) (hsrc : i.srcs.1 = some rs1) (hd : i.dst = some rd)
    (hk : i.fetchKind = .other) (hread : memRead s (readReg s rs1 + imm.signExtend 64) n = .ok s' v t) :
    exec i s = .next (s'.retireWith rd (extend n signed v) (s.fCur.pc + 4)) := by
  have hcomputed : computed i s = .value (readReg s rs1 + imm.signExtend 64) 0 := by rw [computed, hi, hsrc]; rfl
  rw [exec_of_accessed hs hcomputed (s' := s') (res := extend n signed v) (t := t) (by rw [hi]; simp only [memoryOp, loading, hread])
    (by rw [hi]; rfl), hd, hk]
  rfl

/-- A store writes no register (R230). -/
theorem exec_of_store {i : Instr} {s s' : State} {n : Nat} {imm : BitVec 12} {rs1 rs2 : Reg} {w : Word} {t : Nat}
    (hs : s.Ready) (hi : meaningOf i = storing n imm) (hsrc : i.srcs = (some rs1, some rs2)) (hd : i.dst = none)
    (hk : i.fetchKind = .other) (hwrite : memWrite s (readReg s rs1 + imm.signExtend 64) n (readReg s rs2) = .ok s' w t) :
    exec i s = .next (s'.retire (s.fCur.pc + 4)) := by
  have hcomputed : computed i s = .value (readReg s rs1 + imm.signExtend 64) (readReg s rs2) := by rw [computed, hi, hsrc]; rfl
  rw [exec_of_accessed hs hcomputed (s' := s') (res := readReg s rs1 + imm.signExtend 64) (t := t)
    (by rw [hi]; simp only [memoryOp, storing, hwrite]) (by rw [hi]; rfl), hd, hk]
  rfl

/-- A constructor whose instructions are the loads of `n` bytes. -/
theorem loadsLike_of_loading {mk : Reg → Reg → BitVec 12 → Instr} {n : Nat} {signed : Bool} (hn : 0 < n ∧ n ≤ 8 := by decide)
    (hi : ∀ rd rs1 imm, meaningOf (mk rd rs1 imm) = loading n signed imm := by intros; rfl)
    (hsrc : ∀ rd rs1 imm, (mk rd rs1 imm).srcs.1 = some rs1 := by intros; rfl)
    (hd : ∀ rd rs1 imm, (mk rd rs1 imm).dst = some rd := by intros; rfl)
    (hk : ∀ rd rs1 imm, (mk rd rs1 imm).fetchKind = .other := by intros; rfl) : LoadsLike mk n signed := by
  intro s rd rs1 imm p hs hcfg hsound hco hdvd hsafe htr hline hin v
  obtain ⟨st, t, hread, hview⟩ := memRead_answersView ⟨⟨hcfg, hsound.storage, hco⟩, hdvd, hsafe, htr, hline, hin, hn.1⟩
  have hv : extend n signed (valueOf ((List.range n).map fun k => s.view (p + k))) =
      BitVec.ofInt 64 (if signed then signedOf n v else (v : Int)) := by
    simpa using extend_valueOf ((List.range n).map fun k => s.view (p + k)) (by simpa using hn.1) (by simpa using hn.2) signed
  refine ⟨_, exec_of_load hs (hi ..) (hsrc ..) (hd ..) (hk ..) hread, fun q => ?_, ?_⟩
  · simpa [State.retireWith, State.view] using hview q
  · simp [State.retireWith, hv]

/-- Settles O46: the seven loads are one rule at their widths. -/
theorem loadResults : Obligations.LoadResults :=
  ⟨loadsLike_of_loading, loadsLike_of_loading, loadsLike_of_loading, loadsLike_of_loading, loadsLike_of_loading, loadsLike_of_loading,
    loadsLike_of_loading⟩

/-- A constructor whose instructions are the stores of `n` bytes. -/
theorem storesLike_of_storing {mk : Reg → Reg → BitVec 12 → Instr} {n : Nat} (hn : 0 < n := by decide)
    (hi : ∀ rs1 rs2 imm, meaningOf (mk rs1 rs2 imm) = storing n imm := by intros; rfl)
    (hsrc : ∀ rs1 rs2 imm, (mk rs1 rs2 imm).srcs = (some rs1, some rs2) := by intros; rfl)
    (hd : ∀ rs1 rs2 imm, (mk rs1 rs2 imm).dst = none := by intros; rfl)
    (hk : ∀ rs1 rs2 imm, (mk rs1 rs2 imm).fetchKind = .other := by intros; rfl) : StoresLike mk n := by
  intro s rs1 rs2 imm p hs hcfg hsound hco hdvd hsafe htr hline hin
  obtain ⟨st, w, t, hwrite, hview⟩ :=
    memWrite_changesView ⟨⟨hcfg, hsound.storage, hco⟩, hdvd, hsafe, htr, hline, hin, hn⟩ (readReg s rs2)
  exact ⟨_, exec_of_store hs (hi ..) (hsrc ..) (hd ..) (hk ..) hwrite, hview, rfl⟩

/-- Settles O47: the four stores are one rule at their widths. -/
theorem storeResults : Obligations.StoreResults :=
  ⟨storesLike_of_storing, storesLike_of_storing, storesLike_of_storing, storesLike_of_storing⟩

end Sys2Proof.Machine

namespace Sys2Proof.Machine

/-! SUPPORT and PROOF. The system calls between two cycles (43_system.md R260 to R270): ECALL performs the call that `a7` names and, unless
the call raises, retires. -/

/-! ### The calls, by the value of `a7` (R261, R270) -/

section Calls

variable {pc a0 a7 : Word} {s : State}

theorem syscall_printInt (h : a7 = 0) : syscall pc a0 a7 s = emit (.printInt a0) s := by subst h; rfl

theorem syscall_printChar (h : a7 = 1) : syscall pc a0 a7 s = emit (.printChar (a0.extractLsb' 0 8)) s := by
  subst h
  rw [← BitVec.setWidth_eq_extractLsb' (by decide)]
  rfl

theorem syscall_printStr (h : a7 = 2) : syscall pc a0 a7 s = sysPrintStr a0 s := by subst h; rfl

/-- Both reads take the next value of the stream (R267, R268); past its end the value is free (log entry 3). -/
theorem syscall_read (h : a7 = 3 ∨ a7 = 4) : syscall pc a0 a7 s =
    writeReg 10 (s.input.headD (Config.freeInput s.inputPos)) { s with input := s.input.drop 1, inputPos := s.inputPos + 1 } := by
  have hread : syscall pc a0 a7 s = sysRead s := by rcases h with rfl | rfl <;> rfl
  cases hin : s.input <;> simp [hread, sysRead, nextInput, hin, regA0]

theorem syscall_exit (h : a7 = 93) : syscall pc a0 a7 s = sysExit a0 s := by subst h; rfl

theorem syscall_unknown (h : a7 ∉ ([0, 1, 2, 3, 4, 93] : List Word)) : syscall pc a0 a7 s = raise (.unknownSyscall pc a7) s := by
  simp only [List.mem_cons, List.not_mem_nil, or_false, not_or] at h
  obtain ⟨h0, h1, h2, h3, h4, h93⟩ := h
  rw [syscall, if_neg h0, if_neg h1, if_neg h2, if_neg h3, if_neg h4, if_neg h93]

end Calls

/-! ### The whole life of ECALL (R260) -/

section Life

variable {s : State}

/-- ECALL leaves what its call left, and retires unless that is fatal. -/
theorem exec_ecall {u : State} (hs : s.Ready) (hcall : syscall s.fCur.pc (readReg s 10) (readReg s 17) s = u) :
    exec .ecall s = .next (if u.status.isFatal then u else u.retire (s.fCur.pc + 4)) := by
  have hretire : retireOp .ecall (meaningOf .ecall) s.fCur.pc (readReg s 10) (readReg s 17) true s =
      if u.status.isFatal then u else countInst u := by rw [← hcall]; rfl
  have halone : alone .ecall (meaningOf .ecall) s =
      let t := retireOp .ecall (meaningOf .ecall) s.fCur.pc (readReg s 10) (readReg s 17) true s
      if t.status.isFatal then t else { t with fCur := { t.fCur with pc := s.fCur.pc + 4 } } := rfl
  rw [exec_between hs.between, halone, hretire]
  by_cases hfatal : u.status.isFatal = true <;> simp [hfatal, State.retire, countInst]

/-- A call that does not raise retires, and the next address follows. -/
theorem exec_ecall_of_done {u : State} (hs : s.Ready) (hcall : syscall s.fCur.pc (readReg s 10) (readReg s 17) s = u)
    (hu : u.status.isFatal = false) : exec .ecall s = .next (u.retire (s.fCur.pc + 4)) := by
  simp [exec_ecall hs hcall, hu]

/-- A call that raises stops there (R270, R302). -/
theorem exec_ecall_of_raise {k : FatalKind} (hs : s.Ready)
    (hcall : syscall s.fCur.pc (readReg s 10) (readReg s 17) s = raise k s) : exec .ecall s = .next (raise k s) :=
  exec_ecall hs hcall

end Life

/-- Settles O51: the call that `a7` names, then the life of ECALL around it. -/
theorem ecallFunctions : Obligations.EcallFunctions := by
  intro s hs a0 a7 next
  have hrun := isFatal_of_running hs.running
  refine ⟨fun h => exec_ecall_of_done hs (syscall_printInt h) hrun, fun h => exec_ecall_of_done hs (syscall_printChar h) hrun,
    fun h => ⟨s.input.headD (Config.freeInput s.inputPos), ?_, ?_, exec_ecall_of_done hs (syscall_read h) ?_⟩,
    fun h => exec_ecall_of_done hs (syscall_exit h) rfl, fun h => exec_ecall_of_raise hs (syscall_unknown h)⟩
  · exact fun x rest hin => by rw [hin]; rfl
  · exact fun hin => by rw [hin]; rfl
  · rwa [writeReg_status]

/-! ### The string call (R265, R266, R306) -/

/-- The bytes from `v` on are `bytes`, none of them NUL. -/
def ShowsText (s : State) (v : Word) (bytes : List Byte) : Prop :=
  ∀ k (h : k < bytes.length), readByte s (v + BitVec.ofNat 64 k) = some bytes[k] ∧ bytes[k] ≠ 0

theorem add_ofNat_succ (v : Word) (k : Nat) : v + BitVec.ofNat 64 (k + 1) = v + 1 + BitVec.ofNat 64 k := by
  rw [Nat.add_comm k 1, BitVec.ofNat_add]
  exact (BitVec.add_assoc ..).symm

section Scan

variable {s : State} {v : Word} {bytes : List Byte}

theorem ShowsText.cons {b : Byte} (h : ShowsText s v (b :: bytes)) : readByte s v = some b ∧ b ≠ 0 ∧ ShowsText s (v + 1) bytes := by
  obtain ⟨hread, hb⟩ := h 0 (Nat.zero_lt_succ _)
  refine ⟨by simpa using hread, hb, fun k hk => ?_⟩
  rw [← add_ofNat_succ]
  exact h (k + 1) (Nat.succ_lt_succ hk)

/-- Mapped bytes other than NUL are text. -/
theorem exists_showsText {n : Nat} (h : ∀ k, k < n → ∃ b, readByte s (v + BitVec.ofNat 64 k) = some b ∧ b ≠ 0) :
    ∃ bytes, bytes.length = n ∧ ShowsText s v bytes := by
  choose byte hbyte using h
  exact ⟨List.ofFn fun k : Fin n => byte k k.isLt, List.length_ofFn, fun k hk => by
    simpa using hbyte k (by simpa using hk)⟩

/-- The scan takes text whole and goes on behind it. -/
theorem scanStr_text (h : ShowsText s v bytes) (n : Nat) (acc : List Byte) :
    scanStr s (bytes.length + n) v acc = scanStr s n (v + BitVec.ofNat 64 bytes.length) (acc ++ bytes) := by
  induction bytes generalizing v acc with
  | nil => simp
  | cons b bytes ih =>
    obtain ⟨hread, hb, hrest⟩ := h.cons
    calc scanStr s (bytes.length + 1 + n) v acc
      _ = scanStr s (bytes.length + n) (v + 1) (acc ++ [b]) := by
        rw [Nat.add_right_comm]
        simp only [scanStr, hread, if_neg hb]
      _ = scanStr s n (v + BitVec.ofNat 64 (bytes.length + 1)) (acc ++ b :: bytes) := by
        rw [ih hrest, ← add_ofNat_succ, List.append_assoc, List.singleton_append]

/-- Text with a NUL behind it, within the cap. -/
theorem scanStr_nul {cap : Nat} (h : ShowsText s v bytes) (hcap : bytes.length < cap)
    (hnul : readByte s (v + BitVec.ofNat 64 bytes.length) = some 0) : scanStr s cap v [] = .str bytes false := by
  obtain ⟨n, rfl⟩ := Nat.exists_eq_add_of_lt hcap
  rw [Nat.add_assoc, scanStr_text h]
  simp [scanStr, hnul]

/-- Text as long as the cap. -/
theorem scanStr_cap (h : ShowsText s v bytes) : scanStr s bytes.length v [] = .str bytes true := scanStr_text h 0 []

/-- Text with an unmapped byte behind it, within the cap. -/
theorem scanStr_unmapped {cap : Nat} (h : ShowsText s v bytes) (hcap : bytes.length < cap)
    (hread : readByte s (v + BitVec.ofNat 64 bytes.length) = none) :
    scanStr s cap v [] = .unmapped (v + BitVec.ofNat 64 bytes.length) := by
  obtain ⟨n, rfl⟩ := Nat.exists_eq_add_of_lt hcap
  rw [Nat.add_assoc, scanStr_text h]
  simp [scanStr, hread]

end Scan

section PrintString

variable {s : State}

/-- A string that is found is printed (R265). -/
theorem exec_ecall_of_str {bytes : List Byte} {cut : Bool} (hs : s.Ready) (ha7 : readReg s 17 = 2)
    (h : scanStr s s.cfg.maxStrLen (readReg s 10) [] = .str bytes cut) :
    exec .ecall s = .next ((emit (.printStr bytes cut) s).retire (s.fCur.pc + 4)) :=
  exec_ecall_of_done hs ((syscall_printStr ha7).trans (by rw [sysPrintStr, h])) (isFatal_of_running hs.running)

/-- An unmapped byte raises, and nothing is printed (R306). -/
theorem exec_ecall_of_unmapped {v : Word} (hs : s.Ready) (ha7 : readReg s 17 = 2)
    (h : scanStr s s.cfg.maxStrLen (readReg s 10) [] = .unmapped v) :
    exec .ecall s = .next (raise (.translationError .writeBack .unmapped v 1) s) :=
  exec_ecall_of_raise hs ((syscall_printStr ha7).trans (by rw [sysPrintStr, h]))

end PrintString

/-- Settles O52: the scan takes the text whole; the byte behind it, or the cap, decides. -/
theorem ecallPrintsString : Obligations.EcallPrintsString := by
  intro s hs ha7 at_
  refine ⟨fun bytes hcap htext hnul => ?_, fun bytes hcap htext => ?_, fun n hn htext hread => ?_⟩
  · exact exec_ecall_of_str hs ha7 (scanStr_nul htext hcap hnul)
  · exact exec_ecall_of_str hs ha7 (hcap ▸ scanStr_cap htext)
  · obtain ⟨bytes, rfl, hbytes⟩ := exists_showsText htext
    exact exec_ecall_of_unmapped hs ha7 (scanStr_unmapped hbytes hn hread)

end Sys2Proof.Machine

namespace Sys2Proof.Machine

/-! SUPPORT and PROOF. Accesses that raise (60_exceptions.md R304, R307): those that do not translate, and the storage requests that do not
fit the layer they come to. -/

/-! ### An access that does not translate (R304, R305) -/

theorem access_of_untranslated {stage : Stage} {s : State} {v d : Word} {n : Nat} {rd : Bool} {kind : TranslationKind}
    (h : translate s v n = .fail kind) : access stage s v n rd d = .raised (raise (.translationError stage kind v n) s) := by
  simp only [access, h]

theorem memoryOp_of_untranslated {i : Instr} {op : MemOp} {s : State} {v d : Word} {kind : TranslationKind} (ha : i.access = some op)
    (h : translate s v op.bytes = .fail kind) :
    memoryOp (meaningOf i) v d s = .raised (raise (.translationError .memory kind v op.bytes) s) := by
  have hmem := mem_eq i
  obtain ⟨isRead, n⟩ := op
  rw [ha] at hmem
  cases isRead <;> simp only [memoryOp, hmem, memRead, memWrite, access_of_untranslated h]

/-- The whole life of a load or store ends where its access raises. -/
theorem exec_of_untranslated {i : Instr} {op : MemOp} {s : State} {v c : Word} {kind : TranslationKind} (hs : s.Ready)
    (ha : i.access = some op) (hv : computed i s = .value v c) (h : translate s v op.bytes = .fail kind) :
    exec i s = .next (raise (.translationError .memory kind v op.bytes) s) := by
  rw [computed] at hv
  rw [exec_between hs.between]
  simp only [alone, executeOp, hv, memoryOp_of_untranslated ha h]

/-- Settles O48: each of the eleven computes the address that MemoryAccess fails to translate. -/
theorem untranslatedAccessRaises : Obligations.UntranslatedAccessRaises := by
  intro i s op kind hs ha addr imm hi htr
  obtain ⟨c, hv⟩ : ∃ c, computed i s = .value (addr imm) c := by
    obtain ⟨rd, rs1, hi⟩ := hi
    rcases hi with rfl | rfl | rfl | rfl | rfl | rfl | rfl | rfl | rfl | rfl | rfl <;> exact ⟨_, rfl⟩
  exact exec_of_untranslated hs ha hv htr

/-! ### A request that does not fit (R307) -/

/-- `n` bytes at `a` do not fit the layer `l`, one of the levels `cs`, numbered from `i`, or Memory (R71, R89). -/
inductive Overruns (cfg : Config) (a n : Nat) : Nat → List LevelCfg → LayerName → Prop
  | line {i : Nat} {c : LevelCfg} {cs : List LevelCfg} (h : c.lineSize < c.off a + n) : Overruns cfg a n i (c :: cs) (.cache i)
  | deeper {i : Nat} {c : LevelCfg} {cs : List LevelCfg} {l : LayerName} (h : Overruns cfg a n (i + 1) cs l) :
    Overruns cfg a n i (c :: cs) l
  | memory {i : Nat} {cs : List LevelCfg} (h : cfg.physMemSize < a + n) : Overruns cfg a n i cs .memory

theorem Overruns.past_memory {cfg : Config} {a n i : Nat} {cs : List LevelCfg} {l : LayerName} (h : Overruns cfg a n i cs l)
    (hl : l = .memory) : cfg.physMemSize < a + n := by
  induction h with
  | line => cases hl
  | deeper _ ih => exact ih hl
  | memory h => exact h

theorem Overruns.past_line {cfg : Config} {a n i j : Nat} {cs : List LevelCfg} {l : LayerName} (h : Overruns cfg a n i cs l)
    (hl : l = .cache j) : i ≤ j ∧ ∃ c, cs[j - i]? = some c ∧ c.lineSize < c.off a + n := by
  induction h with
  | @line i c cs h =>
    cases hl
    exact ⟨Nat.le_refl _, c, by simp, h⟩
  | @deeper i c cs l _ ih =>
    obtain ⟨hle, d, hd, hfit⟩ := ih hl
    refine ⟨Nat.le_of_succ_le hle, d, ?_, hfit⟩
    rw [show j - i = j - (i + 1) + 1 by omega, List.getElem?_cons_succ, hd]
  | memory => cases hl

/-- An answer that is no error, or an error whose record meets `P`. -/
def Reply.ErrsOnly (P : LayerName → Nat → Nat → Prop) : Reply → Prop
  | .ok _ _ _ _ => True
  | .bounds _ l a n => P l a n

/-- A layer all of whose errors meet `P`. -/
def ErrsOnly (P : LayerName → Nat → Nat → Prop) (f : Req → Storage → Reply) : Prop := ∀ r st, (f r st).ErrsOnly P

section Level

variable {P : LayerName → Nat → Nat → Prop} {cfg : Config} {c : LevelCfg} {lower : Req → Storage → Reply} (hl : ErrsOnly P lower)
  (r : Req) (lv : Level) (below : Storage)

include hl

theorem writeLine_errs (w : Nat) (line : CacheLine) (hit : Bool) (t : Nat) :
    (writeLine c lower r lv below w line hit t).ErrsOnly P := by
  have hlow := hl { r with isRead := false } below
  unfold writeLine
  dsimp only
  split
  · split <;> rename_i he <;> rw [he] at hlow
    · trivial
    · exact hlow
  · trivial

theorem hitPath_errs (w : Nat) : (hitPath c lower r lv below w).ErrsOnly P := by
  unfold hitPath
  dsimp only
  split
  · trivial
  · exact writeLine_errs hl ..

theorem forwardMiss_errs : (forwardMiss lower r lv below).ErrsOnly P := by
  have hlow := hl r below
  unfold forwardMiss
  split <;> rename_i he <;> rw [he] at hlow
  · trivial
  · exact hlow

theorem writeback_errs (old : CacheLine) : (writeback c lower r old below).ErrsOnly P := by
  unfold writeback
  split
  · exact hl ..
  · trivial

theorem fillPath_errs (w twb : Nat) : (fillPath c lower r lv below w twb).ErrsOnly P := by
  have hlow := hl (fillReq c r) below
  unfold fillPath
  dsimp only
  split <;> rename_i he <;> rw [fillReq, he] at hlow
  · exact hlow
  · split
    · trivial
    · exact writeLine_errs hl ..

theorem allocate_errs : (allocate c lower r lv below).ErrsOnly P := by
  have hwb := writeback_errs (c := c) hl r below (victimLine c lv r.addr)
  unfold allocate
  dsimp only
  split <;> rename_i he
  · rw [victimLine, victimOf, he] at hwb
    exact hwb
  · exact fillPath_errs hl ..

/-- A level adds one cause of its own: a request that crosses its line (R71). -/
theorem serve_errs {i : Nat} (hcross : c.lineSize < c.off r.addr + r.bytes → P (.cache i) r.addr r.bytes) :
    (serve i c lower r lv below).ErrsOnly P := by
  unfold serve
  dsimp only
  split
  · next h => exact hcross h
  · split
    · exact hitPath_errs hl ..
    · split
      · exact forwardMiss_errs hl ..
      · exact allocate_errs hl ..

end Level

theorem prefetchLoop_errs {P : LayerName → Nat → Nat → Prop} {self : Req → Storage → Reply} (hs : ErrsOnly P self) (cfg : Config)
    (c : LevelCfg) (base n k : Nat) (st : Storage) : (prefetchLoop cfg c self base n k st).ErrsOnly P := by
  induction n generalizing k st with
  | zero => trivial
  | succ n ih =>
    have hself := hs ⟨base + k * c.lineSize, c.lineSize, true, [], true⟩ st
    simp only [prefetchLoop]
    split
    · trivial
    · split <;> rename_i he <;> rw [he] at hself
      · exact ih ..
      · exact hself

theorem withPrefetch_errs {P : LayerName → Nat → Nat → Prop} {self : Req → Storage → Reply} (hs : ErrsOnly P self) (cfg : Config)
    (c : LevelCfg) (r : Req) {rep : Reply} (h : rep.ErrsOnly P) : (withPrefetch cfg c self r rep).ErrsOnly P := by
  cases rep with
  | bounds => exact h
  | ok st buf hit t =>
    have hloop := prefetchLoop_errs hs cfg c (c.base r.addr) (c.prefetch - 1) 1 st
    simp only [withPrefetch]
    split
    · trivial
    · split <;> rename_i he <;> rw [he] at hloop
      · trivial
      · exact hloop

theorem memHandle_errs (cfg : Config) (i : Nat) (cs : List LevelCfg) : ErrsOnly (fun l a n => Overruns cfg a n i cs l) (memHandle cfg) := by
  intro r st
  unfold memHandle
  split
  · exact .memory ‹_›
  · split <;> trivial

/-- Every error of the chain names a layer that its own record does not fit. -/
theorem handle_errs (cfg : Config) (cs : List LevelCfg) (i : Nat) : ErrsOnly (fun l a n => Overruns cfg a n i cs l) (handle cfg i cs) := by
  induction cs generalizing i with
  | nil => exact memHandle_errs cfg i []
  | cons c cs ih =>
    have hlower : ErrsOnly (fun l a n => Overruns cfg a n i (c :: cs) l) (handle cfg (i + 1) cs) := by
      intro r st
      have herr := ih (i + 1) r st
      cases he : handle cfg (i + 1) cs r st <;> rw [he] at herr
      · trivial
      · exact .deeper herr
    have hself : ErrsOnly (fun l a n => Overruns cfg a n i (c :: cs) l) (atLevel cfg i c (handle cfg (i + 1) cs)) := by
      intro r st
      unfold atLevel
      split
      · exact memHandle_errs cfg i (c :: cs) r st
      · exact serve_errs hlower r _ _ .line
    exact fun r st => handle_cons cfg i c cs r st ▸ withPrefetch_errs hself cfg c r (hself r st)

end Sys2Proof.Machine

namespace Sys2Proof.Machine

/-! SUPPORT and PROOF. Fatal errors (60_exceptions.md R300 to R311): a cycle ends at the first stage that raises, uncommitted, and each stage
raises only for causes of its own. -/

/-! ### The stages of a cycle (R410) -/

/-- A stage of a cycle. -/
def stageAt : Stage → State → Host.Outcome State Fault Refusal
  | .fetch, s => .next (fetchStage s)
  | .decode, s => decodeStage s
  | .execute, s => executeStage s
  | .memory, s => memoryStage s
  | .writeBack, s => writeBackStage s

/-- The stages listed, as far as none raises, and the update. -/
def runStages : List Stage → State → Host.Outcome State Fault Refusal
  | [], s => .next (updatePipeline s)
  | g :: gs, s => thenStage (stageAt g s) (runStages gs)

theorem cycle_eq_runStages (s : State) :
    cycle s = runStages ([.fetch, .decode, .execute, .memory] ++ [.writeBack]) { s with sig := Signals.idle } := rfl

theorem stageAt_answers (g : Stage) (s : State) : ∃ u, stageAt g s = .next u := by
  cases g with
  | fetch => exact ⟨_, rfl⟩
  | decode => rcases decodeStage_cases s with ⟨-, he⟩ | ⟨_, _, -, -, he⟩ | ⟨_, _, -, -, he⟩ <;> exact ⟨_, he⟩
  | execute =>
    rcases executeStage_cases s with ⟨-, he⟩ | ⟨e, -, he⟩ <;> rw [stageAt, he]
    · exact ⟨_, rfl⟩
    · exact thenStage_answers ⟨_, rfl⟩ fun _ => ⟨_, rfl⟩
  | memory =>
    rcases memoryStage_cases s with ⟨-, he⟩ | ⟨x, -, he⟩ <;> rw [stageAt, he]
    · exact ⟨_, rfl⟩
    · exact thenStage_answers ⟨_, rfl⟩ fun _ => ⟨_, rfl⟩
  | writeBack =>
    rcases writeBackStage_cases s with ⟨-, he⟩ | ⟨x, -, he⟩ <;> rw [stageAt, he]
    · exact ⟨_, rfl⟩
    · exact thenStage_answers ⟨_, rfl⟩ fun _ => ⟨_, rfl⟩

/-! ### What can make a stage raise (R303 to R311) -/

/-- Why an access of `n` bytes at `v` raises, and the record it raises (R304, R305, R307). -/
inductive AccessError (s : State) (stage : Stage) (v : Word) (n : Nat) : FatalKind → Prop
  | untranslated {kind : TranslationKind} (h : translate s v n = .fail kind) :
    AccessError s stage v n (.translationError stage kind v n)
  | overruns {l : LayerName} {a k : Nat} (h : Overruns s.cfg a k 1 s.cfg.levels l) : AccessError s stage v n (.boundsError l a k)

/-- Why the call of the ECALL in `x` raises, and the record it raises (R306, R308). -/
inductive CallError (s : State) (x : MSlot) : FatalKind → Prop
  | unmapped {k : Nat} (ha7 : x.valC = 2) (hk : k < s.cfg.maxStrLen)
      (h : translate s (x.valE + BitVec.ofNat 64 k) 1 = .fail .unmapped) :
    CallError s x (.translationError .writeBack .unmapped (x.valE + BitVec.ofNat 64 k) 1)
  | unknown (h : x.valC ∉ ([0, 1, 2, 3, 4, 93] : List Word)) : CallError s x (.unknownSyscall x.pc x.valC)

/-- What Execute computes for the instruction in `e`. -/
def ESlot.computed (cfg : Config) (e : ESlot) : Calc := (meaningOf e.inst.op).compute cfg e.pc e.op1 e.op2

/-- The causes of a fatal error in a cycle that begins with `s`, by the stage that raises it (R303 to R311). -/
inductive FatalCause (s : State) : Stage → FatalKind → Prop
  | fetch {k : FatalKind} (hb : s.fCur.bubble = false) (h : AccessError s .fetch s.fCur.pc 4 k) : FatalCause s .fetch k
  | decode {d : DSlot} {why : DecodeReject} (hd : s.dCur.slot = some d) (h : decode s.cfg.shamt6 d.word = .reject why) :
    FatalCause s .decode (.decodeError d.pc d.word)
  | execute {e : ESlot} {k : FatalKind} (he : s.eCur.slot = some e) (h : e.computed s.cfg = .error k) : FatalCause s .execute k
  | memory {x : MSlot} {op : MemOp} {k : FatalKind} (hx : s.mCur.slot = some x) (ha : x.inst.op.access = some op)
      (h : AccessError s .memory x.valE op.bytes k) : FatalCause s .memory k
  | writeBack {x : MSlot} {k : FatalKind} (hx : s.wCur.slot = some x) (hcall : x.inst.op = .ecall) (h : CallError s x k) :
    FatalCause s .writeBack k

theorem KeepsCur.signals (s : State) (g : Signals) : KeepsCur s { s with sig := g } := ⟨rfl, rfl, rfl, rfl, rfl, rfl, rfl, rfl⟩

theorem AccessError.of_keeps {s v : State} {stage : Stage} {a : Word} {n : Nat} {k : FatalKind} (hv : KeepsCur s v)
    (h : AccessError v stage a n k) : AccessError s stage a n k := by
  cases h with
  | untranslated h => exact .untranslated (translate_congr hv.cfg hv.pt a n ▸ h)
  | overruns h => exact .overruns (hv.cfg ▸ h)

theorem CallError.of_keeps {s v : State} {x : MSlot} {k : FatalKind} (hv : KeepsCur s v) (h : CallError v x k) : CallError s x k := by
  cases h with
  | unmapped ha7 hk h => exact .unmapped ha7 (hv.cfg ▸ hk) (translate_congr hv.cfg hv.pt _ 1 ▸ h)
  | unknown h => exact .unknown h

/-- The causes are a matter of what no stage changes. -/
theorem FatalCause.of_keeps {s v : State} {g : Stage} {k : FatalKind} (hv : KeepsCur s v) (h : FatalCause v g k) :
    FatalCause s g k := by
  cases h with
  | fetch hb h => exact .fetch (hv.fCur ▸ hb) (hv.fCur ▸ h.of_keeps hv)
  | decode hd h => exact .decode (hv.dCur ▸ hd) (hv.cfg ▸ h)
  | execute he h => exact .execute (hv.eCur ▸ he) (hv.cfg ▸ h)
  | memory hx ha h => exact .memory (hv.mCur ▸ hx) ha (h.of_keeps hv)
  | writeBack hx hcall h => exact .writeBack (hv.wCur ▸ hx) hcall (h.of_keeps hv)

/-- What neither the rest of a stage nor the end of a cycle changes is as the stage's own part left it. -/
theorem thenStage_keeps {α : Type} {p : State → α} {v u : State} {f : State → State} (hf : ∀ w, p (f w) = p w)
    (h : thenStage (.next v) (fun w => .next (f w)) = .next u) (hidle : ∀ w, p { w with sig := Signals.idle } = p w := by intro; rfl) :
    p u = p v := by
  obtain ⟨w, hw, ⟨-, rfl⟩ | ⟨-, hu⟩⟩ := thenStage_next h <;> cases hw
  · exact hidle v
  · cases hu
    exact hf v

/-! ### Fetch and Decode -/

theorem status_ne_fatal {s : State} (hs : s.status.isFatal = false) (k : FatalKind) : s.status ≠ .fatal k := by
  intro h
  rw [h] at hs
  cases hs

theorem access_error {stage : Stage} {s s' : State} {v d : Word} {n : Nat} {rd : Bool} (h : access stage s v n rd d = .raised s') :
    ∃ k, AccessError s stage v n k ∧ s'.status = .fatal k := by
  rcases access_cases h with ⟨k, htr, he⟩ | ⟨p, st, buf, hit, t, -, -, he⟩ | ⟨p, st, l, a, k, -, hreq, he⟩
  · injection he with he
    exact ⟨_, .untranslated htr, he ▸ rfl⟩
  · cases he
  · injection he with he
    have herr := handle_errs s.cfg s.cfg.levels 1 ⟨p, n, rd, if rd then [] else bytesOf n d, false⟩ s.storage
    rw [show handle s.cfg 1 s.cfg.levels _ _ = _ from hreq] at herr
    exact ⟨_, .overruns herr, he ▸ rfl⟩

theorem fetchStage_cause {s : State} {k : FatalKind} (hs : s.status.isFatal = false) (h : (fetchStage s).status = .fatal k) :
    FatalCause s .fetch k := by
  rcases fetchStage_cases s with ⟨-, he⟩ | ⟨hb, s', hacc, he⟩ | ⟨-, s', v, t, hacc, he⟩ <;> rw [he] at h
  · exact absurd h (status_ne_fatal hs k)
  · obtain ⟨k', herr, hk⟩ := access_error hacc
    cases hk.symm.trans h
    exact .fetch hb herr
  · obtain ⟨st, rfl, -⟩ := access_ok hacc
    exact absurd h (status_ne_fatal hs k)

theorem decodeStage_cause {s u : State} {k : FatalKind} (hs : s.status.isFatal = false) (h : decodeStage s = .next u)
    (hu : u.status = .fatal k) : FatalCause s .decode k := by
  rcases decodeStage_cases s with ⟨-, he⟩ | ⟨d, why, hd, hw, he⟩ | ⟨d, i, -, -, he⟩ <;> cases he.symm.trans h
  · exact absurd hu (status_ne_fatal hs k)
  · cases hu
    exact .decode hd hw
  · obtain ⟨q, _, hpart, -⟩ := decodePart_issue i (meaningOf i) d (report 1 s)
    rw [show decodePart i _ (atPhase .decode (report 1 (issue i d s))) = _ from hpart] at hu
    exact absurd hu (status_ne_fatal hs k)

/-! ### Execute -/

/-- The counters that a cycle changes only when it retires an instruction or comes to its end (R427, R450). -/
def Counters.settled (c : Counters) : Counters := { c with controlHazards := 0, loadUseStalls := 0 }

/-- Execute's own part counts no retirement, and raises only for what it computes. -/
theorem executePart_outcome {s : State} {e : ESlot} (he : s.eCur.slot = some e) :
    let u := executePart e.inst.op (meaningOf e.inst.op) (atPhase .execute s)
    u.ctr.settled = s.ctr.settled ∧ (u.status = s.status ∨ ∃ k, FatalCause s .execute k ∧ u.status = .fatal k) := by
  simp only [executePart, atPhase_eCur, he]
  generalize hout : executeOp _ _ _ _ _ _ = out
  rcases executeOp_cases hout with ⟨_, _, -, rfl⟩ | ⟨_, _, -, ⟨-, rfl⟩ | ⟨-, rfl⟩⟩ | ⟨_, _, -, rfl⟩ | ⟨k, hk, rfl⟩
  · exact ⟨rfl, .inl rfl⟩
  · exact ⟨rfl, .inl rfl⟩
  · exact ⟨rfl, .inl rfl⟩
  · exact ⟨rfl, .inl rfl⟩
  · exact ⟨rfl, .inr ⟨k, .execute he hk, rfl⟩⟩

theorem afterExecute_outcome (i : Instr) (s : State) :
    (afterExecute i s).ctr.settled = s.ctr.settled ∧ (afterExecute i s).status = s.status := by
  obtain ⟨w, hw, hend⟩ := afterExecute_eq i s
  have hsame : w.ctr = s.ctr ∧ w.status = s.status := by
    rcases hw with rfl | ⟨x, -, -, rfl⟩
    · exact ⟨rfl, rfl⟩
    · exact ⟨forward_ctr .., forward_status ..⟩
  rcases hend with ⟨-, he⟩ | ⟨-, he⟩ <;> rw [he, ← hsame.1, ← hsame.2] <;> exact ⟨rfl, rfl⟩

/-- Execute counts no retirement, and raises only for what it computes. -/
theorem executeStage_outcome {s u : State} (h : executeStage s = .next u) :
    u.ctr.settled = s.ctr.settled ∧ (u.status = s.status ∨ ∃ k, FatalCause s .execute k ∧ u.status = .fatal k) := by
  rcases executeStage_cases s with ⟨-, heq⟩ | ⟨e, he, heq⟩ <;> rw [heq] at h
  · cases h
    exact ⟨rfl, .inl rfl⟩
  · rw [thenStage_keeps (p := fun w => w.ctr.settled) (fun w => (afterExecute_outcome e.inst.op w).1) h,
      thenStage_keeps (p := State.status) (fun w => (afterExecute_outcome e.inst.op w).2) h]
    exact executePart_outcome he

/-! ### MemoryAccess -/

theorem access_of_load {i : Instr} {n : Nat} {signed : Bool} (h : (meaningOf i).mem = .load n signed) :
    i.access = some ⟨true, n⟩ := by
  rw [mem_eq] at h
  split at h
  · cases h
  · next m ha => cases h; exact ha
  · cases h

theorem access_of_store {i : Instr} {n : Nat} (h : (meaningOf i).mem = .store n) : i.access = some ⟨false, n⟩ := by
  rw [mem_eq] at h
  split at h
  · cases h
  · cases h
  · next m ha => cases h; exact ha

theorem memoryOp_error {i : Instr} {e c : Word} {s s' : State} (h : memoryOp (meaningOf i) e c s = .raised s') :
    ∃ op k, i.access = some op ∧ AccessError s .memory e op.bytes k ∧ s'.status = .fatal k := by
  rcases memoryOp_cases h with ⟨-, he⟩ | ⟨n, signed, u, v, t, -, -, he⟩ | ⟨n, signed, u, hmem, hacc, he⟩ |
    ⟨n, u, v, t, -, -, he⟩ | ⟨n, u, hmem, hacc, he⟩ <;> cases he
  · obtain ⟨k, herr, hk⟩ := access_error hacc
    exact ⟨⟨true, n⟩, k, access_of_load hmem, herr, hk⟩
  · obtain ⟨k, herr, hk⟩ := access_error hacc
    exact ⟨⟨false, n⟩, k, access_of_store hmem, herr, hk⟩

theorem memoryPart_cause {s : State} {x : MSlot} {k : FatalKind} (hs : s.status.isFatal = false) (hx : s.mCur.slot = some x)
    (hu : (memoryPart (meaningOf x.inst.op) (atPhase .memory s)).status = .fatal k) : FatalCause s .memory k := by
  simp only [memoryPart, atPhase_mCur, hx] at hu
  have hkeeps := memoryOp_keeps (meaningOf x.inst.op) x.valE x.valC (atPhase .memory s)
  cases hop : memoryOp (meaningOf x.inst.op) x.valE x.valC (atPhase .memory s) with
  | done s' res t =>
    rw [hop] at hu hkeeps
    exact absurd (hkeeps.symm.trans hu) (status_ne_fatal hs k)
  | raised s' =>
    rw [hop] at hu
    obtain ⟨op, k', ha, herr, hk⟩ := memoryOp_error hop
    cases hk.symm.trans hu
    exact .memory hx ha (herr.of_keeps (KeepsCur.signals s _))

theorem afterMemory_status (i : Instr) (s : State) : (afterMemory i s).status = s.status := by
  unfold afterMemory
  split
  · exact forward_status ..
  · rfl

theorem memoryStage_cause {s u : State} {k : FatalKind} (hs : s.status.isFatal = false) (h : memoryStage s = .next u)
    (hu : u.status = .fatal k) : FatalCause s .memory k := by
  rcases memoryStage_cases s with ⟨-, heq⟩ | ⟨x, hx, heq⟩ <;> rw [heq] at h
  · cases h
    exact absurd hu (status_ne_fatal hs k)
  · exact memoryPart_cause hs hx ((thenStage_keeps (afterMemory_status x.inst.op) h).symm.trans hu)

/-! ### WriteBack -/

/-- A byte is never misaligned (R62). -/
theorem translate_byte_fail {s : State} {v : Word} {kind : TranslationKind} (h : translate s v 1 = .fail kind) : kind = .unmapped := by
  have hm : misaligned s.cfg v 1 = false := rfl
  simp only [translate, hm, Bool.false_eq_true, if_false] at h
  split at h
  · split at h <;> cases h
    rfl
  · cases h
    rfl

theorem readByte_eq_none {s : State} {v : Word} (h : readByte s v = none) : translate s v 1 = .fail .unmapped := by
  unfold readByte at h
  split at h
  · cases h
  · next kind htr => rw [htr, translate_byte_fail htr]

/-- A scan that stops at an unmapped byte has read fewer bytes than it may. -/
theorem exists_of_scanStr_unmapped {s : State} {n : Nat} {v w : Word} {acc : List Byte} (h : scanStr s n v acc = .unmapped w) :
    ∃ k, k < n ∧ w = v + BitVec.ofNat 64 k ∧ readByte s w = none := by
  induction n generalizing v acc with
  | zero => cases h
  | succ n ih =>
    rw [scanStr] at h
    split at h
    · next hread =>
      cases h
      exact ⟨0, Nat.zero_lt_succ n, by simp, hread⟩
    · split at h
      · cases h
      · obtain ⟨k, hk, rfl, hread⟩ := ih h
        exact ⟨k + 1, Nat.succ_lt_succ hk, (add_ofNat_succ v k).symm, hread⟩

theorem syscall_cause {s : State} {x : MSlot} {k : FatalKind} (hs : s.status.isFatal = false)
    (h : (syscall x.pc x.valE x.valC s).status = .fatal k) : CallError s x k := by
  rcases syscall_cases x.pc x.valE x.valC s with ⟨-, he⟩ | ⟨-, he⟩ | ⟨-, _, _, -, he⟩ | ⟨ha7, v, hscan, he⟩ | ⟨-, he⟩ | ⟨-, he⟩ |
    ⟨h0, h1, h2, h3, h4, h93, he⟩ <;> rw [he] at h
  · exact absurd h (status_ne_fatal hs k)
  · exact absurd h (status_ne_fatal hs k)
  · exact absurd h (status_ne_fatal hs k)
  · cases h
    obtain ⟨k, hk, rfl, hread⟩ := exists_of_scanStr_unmapped hscan
    exact .unmapped ha7 hk (readByte_eq_none hread)
  · obtain ⟨rest, hrest⟩ := nextInput_eq s
    rw [writeReg_eq, hrest] at h
    exact absurd h (status_ne_fatal hs k)
  · cases h
  · cases h
    refine .unknown ?_
    simp only [List.mem_cons, List.not_mem_nil, or_false, not_or]
    exact ⟨h0, h1, h2, h3, h4, h93⟩

/-- WriteBack's part of an ECALL leaves the status its call left. -/
theorem writeBackPart_status {s : State} {x : MSlot} (hx : s.wCur.slot = some x) (hcall : x.inst.op = .ecall) :
    (writeBackPart x.inst.op (meaningOf x.inst.op) s).status = (syscall x.pc x.valE x.valC s).status := by
  have hretire : (retireOp .ecall (meaningOf .ecall) x.pc x.valE x.valC x.predOK s).status =
      (syscall x.pc x.valE x.valC s).status := by
    change (if (syscall x.pc x.valE x.valC s).status.isFatal then _ else countInst _).status = _
    split <;> rfl
  simp only [writeBackPart, hx, hcall, ← hretire]
  split <;> rfl

theorem writeBackPart_cause {s : State} {x : MSlot} {k : FatalKind} (hs : s.status.isFatal = false) (hx : s.wCur.slot = some x)
    (hu : (writeBackPart x.inst.op (meaningOf x.inst.op) s).status = .fatal k) : FatalCause s .writeBack k := by
  by_cases hcall : x.inst.op = .ecall
  · exact .writeBack hx hcall (syscall_cause hs ((writeBackPart_status hx hcall).symm.trans hu))
  · rcases writeBackPart_cases hx hs with ⟨-, regs, ctr, -, he⟩ | ⟨hc, -⟩ | ⟨hc, -⟩ | ⟨hc, -⟩
    · rw [he] at hu
      exact absurd hu (status_ne_fatal hs k)
    all_goals exact absurd hc hcall

theorem writeBackStage_cause {s u : State} {k : FatalKind} (hs : s.status.isFatal = false) (h : writeBackStage s = .next u)
    (hu : u.status = .fatal k) : FatalCause s .writeBack k := by
  rcases writeBackStage_cases s with ⟨-, heq⟩ | ⟨x, hx, heq⟩ <;> rw [heq] at h
  · cases h
    exact absurd hu (status_ne_fatal hs k)
  · have hpart := (thenStage_keeps (fun w => forward_status w x.inst.op.dst x.valE) h).symm.trans hu
    exact (writeBackPart_cause (s := atPhase .writeBack (report 1 s)) hs hx hpart).of_keeps (KeepsCur.signals s _)

/-! ### Where a cycle raises (R302) -/

/-- A stage raises only for a cause of its own. -/
theorem stageAt_cause {g : Stage} {s u : State} {k : FatalKind} (hs : s.status.isFatal = false) (h : stageAt g s = .next u)
    (hu : u.status = .fatal k) : FatalCause s g k := by
  cases g with
  | fetch => cases h; exact fetchStage_cause hs hu
  | decode => exact decodeStage_cause hs h hu
  | execute =>
    rcases (executeStage_outcome h).2 with hst | ⟨k', hk, hst⟩
    · exact absurd (hst.symm.trans hu) (status_ne_fatal hs k)
    · cases hst.symm.trans hu
      exact hk
  | memory => exact memoryStage_cause hs h hu
  | writeBack => exact writeBackStage_cause hs h hu

/-- What a cycle from `s` has changed, at `u`, before WriteBack has gone on: nothing that R302 lets only a whole cycle change. -/
structure Uncommitted (s u : State) : Prop extends Untouched s u where
  counts : u.ctr.settled = s.ctr.settled

/-- Every stage but a WriteBack that goes on leaves the machine uncommitted. -/
theorem Uncommitted.stage {g : Stage} {s v u : State} (h : Uncommitted s v) (hv : v.status.isFatal = false)
    (hstage : stageAt g v = .next u) (hg : g ≠ .writeBack ∨ u.status.isFatal = true) : Uncommitted s u := by
  cases g with
  | fetch =>
    have hstep : FetchStep v u := Host.Outcome.next.inj hstage ▸ fetchStage_step v
    refine ⟨h.toUntouched.fetch hstep, ?_⟩
    rw [← h.counts]
    cases hstep <;> rfl
  | decode =>
    have hstep := decodeStage_step hstage
    refine ⟨h.toUntouched.decode hstep, ?_⟩
    rw [← h.counts]
    cases hstep <;> rfl
  | execute =>
    exact ⟨h.toUntouched.execute (executeStage_step hv hstage), (executeStage_outcome hstage).1.trans h.counts⟩
  | memory =>
    have hstep := memoryStage_step hv hstage
    refine ⟨h.toUntouched.memory hstep, ?_⟩
    rw [← h.counts]
    cases hstep <;> rfl
  | writeBack =>
    have hfatal := hg.resolve_left (· rfl)
    cases writeBackStage_step hv hstage with
    | raised => exact { h with status := .inr rfl }
    | output _ _ status _ _ _ _ _ hstatus => rcases hstatus with rfl | rfl <;> simp [hv] at hfatal
    | _ => simp [hv] at hfatal

/-- Stages that end in a fatal error, WriteBack last, end where one of them raised, with the machine uncommitted. -/
theorem runStages_raises {gs : List Stage} {s v t : State} {k : FatalKind} (hgs : .writeBack ∉ gs) (hv : Uncommitted s v)
    (hf : v.status.isFatal = false) (h : runStages (gs ++ [.writeBack]) v = .next t) (ht : t.status = .fatal k) :
    Uncommitted s t ∧ ∃ g, FatalCause s g k := by
  induction gs generalizing v with
  | nil =>
    obtain ⟨u, hu, ⟨hfatal, rfl⟩ | ⟨hgo, he⟩⟩ := thenStage_next h
    · exact ⟨{ hv.stage hf hu (.inr hfatal) with }, _, (stageAt_cause hf hu ht).of_keeps hv.toKeepsCur⟩
    · cases he
      exact absurd ht (status_ne_fatal hgo k)
  | cons g gs ih =>
    simp only [List.mem_cons, not_or] at hgs
    obtain ⟨hg, hgs⟩ := hgs
    obtain ⟨u, hu, ⟨hfatal, rfl⟩ | ⟨hgo, he⟩⟩ := thenStage_next h
    · exact ⟨{ hv.stage hf hu (.inr hfatal) with }, _, (stageAt_cause hf hu ht).of_keeps hv.toKeepsCur⟩
    · exact ih hgs (hv.stage hf hu (.inl (Ne.symm hg))) hgo he

theorem step_raises {s t : State} {k : FatalKind} (h : step s = .next t) (ht : t.status = .fatal k) :
    Uncommitted s t ∧ ∃ g, FatalCause s g k := by
  obtain ⟨hruns, hcycle⟩ := step_next h
  rw [cycle_eq_runStages] at hcycle
  exact runStages_raises (by decide) ⟨Untouched.start s, rfl⟩ (isFatal_of_running hruns.running) hcycle ht

/-- Settles O21: at the stage that raised the machine is uncommitted, and `step` answers a fault for a fatal status. -/
theorem fatalCycleEndsAtOnce : Obligations.FatalCycleEndsAtOnce := by
  intro s t k h ht
  have hu := (step_raises h ht).1
  have hcount := fun f : Counters → Nat => congrArg f hu.counts
  exact ⟨hcount Counters.steps, hcount Counters.cycleCount, hcount Counters.instCount, hcount Counters.branchCount,
    hcount Counters.branchCorrect, hu.regs, hu.out, hu.input, hu.fCur, hu.dCur, hu.eCur, hu.mCur, hu.wCur, (whoHasAStep t).2.2.1 k ht⟩

/-! ### The causes, by the record they raise (R303 to R311) -/

theorem dividing_error {f corner : Word → Word → Word} {cfg : Config} {pc a b : Word} {k : FatalKind}
    (h : (dividing f corner).compute cfg pc a b = .error k) :
    cfg.divCorner = .fault ∧ (b = 0 ∨ a.toInt = -2 ^ 63 ∧ b.toInt = -1) ∧ k = .divFault pc a b := by
  cases hcorner : isDivCorner a b with
  | false => cases (dividing_of_not_corner hcorner).symm.trans h
  | true =>
    cases hcfg : cfg.divCorner with
    | riscv => cases (dividing_of_riscv hcorner hcfg).symm.trans h
    | fault =>
      cases (dividing_of_fault hcorner hcfg).symm.trans h
      exact ⟨rfl, (isDivCorner_iff a b).mp hcorner, rfl⟩

theorem jumpingTo_error {imm : BitVec 12} {cfg : Config} {pc a b : Word} {k : FatalKind}
    (h : (jumpingTo imm).compute cfg pc a b = .error k) :
    cfg.jalrOdd = .fault ∧ (a + imm.signExtend 64).toNat % 2 = 1 ∧ k = .jalrOddTarget pc (a + imm.signExtend 64) := by
  rcases Nat.mod_two_eq_zero_or_one (a + immI imm).toNat with heven | hodd
  · cases (jumpingTo_even heven).symm.trans h
  · cases hcfg : cfg.jalrOdd with
    | clear => cases (jumpingTo_odd_clear hodd hcfg).symm.trans h
    | fault =>
      cases (jumpingTo_odd_fault hodd hcfg).symm.trans h
      exact ⟨rfl, hodd, rfl⟩

/-- Only DIV, REM and JALR have an error of Execute (R310, R311). -/
theorem compute_error {i : Instr} {cfg : Config} {pc a b : Word} {k : FatalKind} (h : (meaningOf i).compute cfg pc a b = .error k) :
    (∃ rd r1 r2, (i = .div rd r1 r2 ∨ i = .rem rd r1 r2) ∧ cfg.divCorner = .fault ∧ (b = 0 ∨ a.toInt = -2 ^ 63 ∧ b.toInt = -1) ∧
      k = .divFault pc a b) ∨
    (∃ rd r1 imm, i = .jalr rd r1 imm ∧ cfg.jalrOdd = .fault ∧ (a + imm.signExtend 64).toNat % 2 = 1 ∧
      k = .jalrOddTarget pc (a + imm.signExtend 64)) := by
  cases i with
  | div rd r1 r2 => exact .inl ⟨rd, r1, r2, .inl rfl, dividing_error h⟩
  | rem rd r1 r2 => exact .inl ⟨rd, r1, r2, .inr rfl, dividing_error h⟩
  | jalr rd r1 imm => exact .inr ⟨rd, r1, imm, rfl, jumpingTo_error h⟩
  | _ => cases h

/-- Settles O22: each cause names its record. -/
theorem everyFatalErrorHasItsCause : Obligations.EveryFatalErrorHasItsCause := by
  intro s t k h ht
  have hbounds : ∀ {l : LayerName} {a n : Nat}, Overruns s.cfg a n 1 s.cfg.levels l →
      (l = .memory → s.cfg.physMemSize < a + n) ∧
      ∀ i, l = .cache i → ∃ c, s.cfg.levels[i - 1]? = some c ∧ c.lineSize < c.off a + n :=
    fun h => ⟨h.past_memory, fun i hi => (h.past_line hi).2⟩
  obtain ⟨g, hcause⟩ := (step_raises h ht).2
  cases hcause with
  | fetch hb herr =>
    cases herr with
    | untranslated htr => exact ⟨hb, rfl, rfl, htr⟩
    | overruns hover => exact ⟨.inl hb, hbounds hover⟩
  | decode hd hw => exact ⟨_, _, hd, rfl, rfl, hw⟩
  | @execute e k he hk =>
    rcases compute_error hk with ⟨rd, r1, r2, hop, hcfg, hcorner, rfl⟩ | ⟨rd, r1, imm, hop, hcfg, hodd, rfl⟩
    · exact ⟨e, rd, r1, r2, he, hop, rfl, rfl, rfl, hcfg, hcorner⟩
    · exact ⟨e, rd, r1, imm, he, hop, rfl, rfl, hodd, hcfg⟩
  | @memory x op k hx ha herr =>
    cases herr with
    | untranslated htr => exact ⟨x, op.isRead, hx, ha, rfl, htr⟩
    | overruns hover => exact ⟨.inr ⟨x, hx, by simp [ha]⟩, hbounds hover⟩
  | @writeBack x k hx hcall herr =>
    cases herr with
    | @unmapped n ha7 hn htr => exact ⟨rfl, rfl, htr, x, n, hx, hcall, ha7, hn, rfl⟩
    | unknown ha7 => exact ⟨x, hx, hcall, rfl, rfl, ha7⟩

end Sys2Proof.Machine

namespace Sys2Proof.Machine

/-! SUPPORT and PROOF. Fatal errors come in stage order (60_exceptions.md R313): a cycle goes past every stage without a cause to raise, and
ends at the first stage that has one. -/

/-- The cycle from `s` comes to the stages `gs` with the machine `v`. -/
structure Reaches (gs : List Stage) (s v : State) : Prop extends Uncommitted s v where
  goes : v.status.isFatal = false
  step : step s = runStages gs v

section Order

variable {g : Stage} {gs : List Stage} {s u v : State}

theorem State.Runs.reaches (h : s.Runs) :
    Reaches [.fetch, .decode, .execute, .memory, .writeBack] s { s with sig := Signals.idle } :=
  ⟨⟨Untouched.start s, rfl⟩, isFatal_of_running h.running, step_runs h⟩

theorem Reaches.next (h : Reaches (g :: gs) s v) (hg : g ≠ .writeBack) (hu : stageAt g v = .next u) (hgo : u.status.isFatal = false) :
    Reaches gs s u :=
  ⟨h.toUncommitted.stage h.goes hu (.inl hg), hgo, h.step.trans (by rw [runStages, hu, thenStage_goes_on hgo])⟩

/-- A cycle goes past a stage that has no cause to raise. -/
theorem Reaches.past (h : Reaches (g :: gs) s v) (hg : g ≠ .writeBack) (hno : ∀ k, ¬ FatalCause s g k) : ∃ u, Reaches gs s u := by
  obtain ⟨u, hu⟩ := stageAt_answers g v
  refine ⟨u, h.next hg hu ?_⟩
  cases hst : u.status with
  | fatal k => exact absurd ((stageAt_cause h.goes hu hst).of_keeps h.toKeepsCur) (hno k)
  | running | exited => rfl

/-- A cycle ends at a stage that raises. -/
theorem Reaches.ends_with {k : FatalKind} (h : Reaches (g :: gs) s v) (hu : stageAt g v = .next u) (hk : u.status = .fatal k) :
    Machine.step s = .next { u with sig := Signals.idle } :=
  h.step.trans (by rw [runStages, hu, thenStage_ends (by rw [hk]; rfl)])

theorem Reaches.ends {k : FatalKind} (h : Reaches (g :: gs) s v) (hu : ∃ u, stageAt g v = .next u ∧ u.status = .fatal k) :
    ∃ t, Machine.step s = .next t ∧ t.status = .fatal k := by
  obtain ⟨u, hu, hk⟩ := hu
  exact ⟨_, h.ends_with hu hk, hk⟩

/-! #### Stages without a cause -/

theorem no_cause_of_decodes (h : ∀ d, s.dCur.slot = some d → ∃ i, decode s.cfg.shamt6 d.word = .ok i) (k : FatalKind) :
    ¬ FatalCause s .decode k := by
  intro hcause
  cases hcause with
  | decode hd hw =>
    obtain ⟨i, hi⟩ := h _ hd
    cases hi.symm.trans hw

theorem no_cause_of_quiet (h : ∀ e, s.eCur.slot = some e → e.inst.op.isJalr = false ∧ e.inst.op.opClass ≠ .div64) (k : FatalKind) :
    ¬ FatalCause s .execute k := by
  intro hcause
  cases hcause with
  | execute he hk =>
    obtain ⟨hjump, hdiv⟩ := h _ he
    rcases compute_error hk with ⟨_, _, _, hop | hop, -⟩ | ⟨_, _, _, hop, -⟩ <;> rw [hop] at hjump hdiv
    · exact hdiv rfl
    · exact hdiv rfl
    · cases hjump

theorem no_cause_of_no_access (h : ∀ x, s.mCur.slot = some x → x.inst.op.access = none) (k : FatalKind) :
    ¬ FatalCause s .memory k := by
  intro hcause
  cases hcause with
  | memory hx ha => cases (h _ hx).symm.trans ha

/-! #### Stages with a cause -/

theorem fetchStage_of_untranslated {kind : TranslationKind} (hb : s.fCur.bubble = false) (h : translate s s.fCur.pc 4 = .fail kind) :
    fetchStage s = raise (.translationError .fetch kind s.fCur.pc 4) s := by
  simp only [fetchStage, hb, Bool.false_eq_true, if_false, fetch32, access_of_untranslated h]

theorem decodeStage_of_reject {d : DSlot} {why : DecodeReject} (hd : s.dCur.slot = some d)
    (h : decode s.cfg.shamt6 d.word = .reject why) : decodeStage s = .next (raise (.decodeError d.pc d.word) s) := by
  simp only [decodeStage, hd, h]

theorem executeStage_of_error {e : ESlot} {k : FatalKind} (he : s.eCur.slot = some e) (h : e.computed s.cfg = .error k) :
    ∃ u, executeStage s = .next u ∧ u.status = .fatal k := by
  rw [ESlot.computed] at h
  have hpart : (executePart e.inst.op (meaningOf e.inst.op) (atPhase .execute s)).status = .fatal k := by
    simp [executePart, he, executeOp, h]
  simp only [executeStage, he, exec_execute]
  exact ⟨_, thenStage_ends (by rw [hpart]; rfl), hpart⟩

theorem memoryStage_of_untranslated {x : MSlot} {op : MemOp} {kind : TranslationKind} (hx : s.mCur.slot = some x)
    (ha : x.inst.op.access = some op) (h : translate s x.valE op.bytes = .fail kind) :
    ∃ u, memoryStage s = .next u ∧ u.status = .fatal (.translationError .memory kind x.valE op.bytes) := by
  have hpart : memoryPart (meaningOf x.inst.op) (atPhase .memory s) =
      raise (.translationError .memory kind x.valE op.bytes) (atPhase .memory s) := by
    simp only [memoryPart, atPhase_mCur, hx, memoryOp_of_untranslated (s := atPhase .memory s) ha h]
  simp only [memoryStage, hx, exec_memory, hpart]
  exact ⟨_, thenStage_ends rfl, rfl⟩

theorem writeBackStage_of_unknown {x : MSlot} (hx : s.wCur.slot = some x) (hcall : x.inst.op = .ecall)
    (ha7 : x.valC ∉ ([0, 1, 2, 3, 4, 93] : List Word)) :
    ∃ u, writeBackStage s = .next u ∧ u.status = .fatal (.unknownSyscall x.pc x.valC) := by
  have hpart : (writeBackPart x.inst.op (meaningOf x.inst.op) (atPhase .writeBack (report 1 s))).status =
      .fatal (.unknownSyscall x.pc x.valC) := by
    rw [writeBackPart_status (s := atPhase .writeBack (report 1 s)) hx hcall, syscall_unknown ha7]
    rfl
  simp only [writeBackStage, hx, exec_writeBack]
  exact ⟨_, thenStage_ends (by rw [hpart]; rfl), hpart⟩

end Order

/-- Settles O23: a cycle comes to a stage when no older stage has a cause, and ends there when the stage has one. -/
theorem errorsComeInStageOrder : Obligations.ErrorsComeInStageOrder := by
  intro s hs decodes quietE
  refine ⟨fun kind hb htr => ?_, fun hfetch => ?_⟩
  · have hraise := fetchStage_of_untranslated (s := { s with sig := Signals.idle }) hb htr
    exact ⟨_, hs.reaches.ends_with (congrArg Host.Outcome.next hraise) rfl, rfl, rfl⟩
  obtain ⟨u, hdecode⟩ : ∃ u, Reaches [.decode, .execute, .memory, .writeBack] s u := ⟨_, hs.reaches.next (by decide) rfl hfetch⟩
  have hexecute : decodes → ∃ v, Reaches [.execute, .memory, .writeBack] s v :=
    fun hd => hdecode.past (by decide) (no_cause_of_decodes hd)
  have hmemory : decodes → quietE → ∃ v, Reaches [.memory, .writeBack] s v := fun hd hq => by
    obtain ⟨v, hv⟩ := hexecute hd
    exact hv.past (by decide) (no_cause_of_quiet hq)
  have herror : ∀ e k, decodes → s.eCur.slot = some e → e.computed s.cfg = .error k →
      ∃ t, step s = .next t ∧ t.status = .fatal k := fun e k hd he hk => by
    obtain ⟨v, hv⟩ := hexecute hd
    exact hv.ends (executeStage_of_error (hv.eCur ▸ he) (hv.cfg ▸ hk))
  refine ⟨fun d why hd hw => ?_, fun e rd r1 r2 hd he hop hcfg hcorner => ?_, fun e rd r1 imm hd he hop hcfg hodd => ?_,
    fun x op kind hd hq hx ha htr => ?_, fun x hd hq hno hx hcall ha7 => ?_⟩
  · exact hdecode.ends ⟨_, decodeStage_of_reject (hdecode.dCur ▸ hd) (hdecode.cfg ▸ hw), rfl⟩
  · refine herror e _ hd he ?_
    have hcorner := (isDivCorner_iff e.op1 e.op2).mpr hcorner
    rcases hop with hop | hop <;> rw [ESlot.computed, hop] <;> exact dividing_of_fault hcorner hcfg
  · refine herror e _ hd he ?_
    rw [ESlot.computed, hop]
    exact jumpingTo_odd_fault hodd hcfg
  · obtain ⟨v, hv⟩ := hmemory hd hq
    exact hv.ends (memoryStage_of_untranslated (hv.mCur ▸ hx) ha ((translate_congr hv.cfg hv.pt _ _).trans htr))
  · obtain ⟨v, hv⟩ := hmemory hd hq
    obtain ⟨w, hw⟩ := hv.past (by decide) (no_cause_of_no_access hno)
    exact hw.ends (writeBackStage_of_unknown (hw.wCur ▸ hx) hcall ha7)

end Sys2Proof.Machine
namespace Sys2Proof.Machine

/-! SUPPORT and PROOF. The launch state and the predictors' tables (70_reset_and_hazards.md R402, R461 to R464): at launch every register
of the pipeline is a bubble and no line of a cache is valid. -/

/-! ### A level at launch -/

/-- Every line of a level at launch is the empty line (R39). -/
theorem eq_empty_of_mem_emptyLevel {c : LevelCfg} {ws : List CacheLine} {x : CacheLine} (hws : ws ∈ (Level.empty c).sets) (hx : x ∈ ws) :
    x = CacheLine.empty c.lineSize := by
  obtain rfl := List.eq_of_mem_replicate hws
  exact List.eq_of_mem_replicate hx

/-- A level at launch holds no address. -/
theorem findHit_emptyLevel (c : LevelCfg) (s tag : Nat) : findHit ((Level.empty c).ways s) tag = none := by
  cases h : findHit ((Level.empty c).ways s) tag with
  | none => rfl
  | some w =>
    have hv := (findHit_line h).1
    obtain ⟨ws, hws, hx⟩ := Level.exists_set_of_valid hv
    rw [eq_empty_of_mem_emptyLevel hws hx] at hv
    cases hv

theorem emptyLevel_sound (c : LevelCfg) : (Level.empty c).Sound c := by
  have hline : ∀ ws ∈ (Level.empty c).sets, ∀ x ∈ ws, x = CacheLine.empty c.lineSize := fun _ hws _ => eq_empty_of_mem_emptyLevel hws
  have hinvalid : ∀ x, x = CacheLine.empty c.lineSize → x.valid = true → False := by rintro _ rfl ⟨⟩
  refine ⟨List.length_replicate, fun ws hws => ?_, fun ws hws x hx => ?_, fun ws hws => ?_, fun ws hws x hx => ?_, ?_,
    fun ws hws x hx hd => ?_, fun _ ws hws x hx => ?_, rfl⟩
  · rw [List.eq_of_mem_replicate hws]
    exact List.length_replicate
  · rw [hline ws hws x hx]
    exact List.length_replicate
  · exact List.pairwise_of_forall_mem_list fun x hx _ _ hv => (hinvalid x (hline ws hws x hx) hv).elim
  · rw [hline ws hws x hx]
    exact Nat.zero_le _
  · refine List.pairwise_of_forall_mem_list fun x hx _ _ hv => ?_
    obtain ⟨ws, hws, hx⟩ := List.mem_flatten.mp hx
    exact (hinvalid x (hline ws hws x hx) hv).elim
  · rw [hline ws hws x hx] at hd
    cases hd
  · rw [hline ws hws x hx]
    rfl

/-! ### The storage at launch -/

theorem emptyLevels_sound (cs : List LevelCfg) : List.Forall₂ Level.Sound cs (cs.map Level.empty) := by
  induction cs with
  | nil => exact .nil
  | cons c cs ih => exact .cons (emptyLevel_sound c) ih

theorem cleanAgree_emptyLevels (cs : List LevelCfg) (m : Memory) : cleanAgree cs (cs.map Level.empty) m := by
  induction cs with
  | nil => trivial
  | cons c cs ih => exact ⟨fun p w h => by simp [findHit_emptyLevel] at h, ih⟩

theorem linesInMemory_emptyLevels (size : Nat) (cs : List LevelCfg) : linesInMemory size cs (cs.map Level.empty) := by
  induction cs with
  | nil => trivial
  | cons c cs ih => exact ⟨fun p w h => by simp [findHit_emptyLevel] at h, ih⟩

theorem launch_coherent (l : Launch) : (State.launch l).storage.Coherent l.cfg :=
  ⟨cleanAgree_emptyLevels _ _, linesInMemory_emptyLevels _ _⟩

/-! ### The machine at launch -/

theorem launch_sound {l : Launch} (hadmitted : l.cfg.admitted = true) (hwf : l.pmem.wf) (hsized : ∀ x ∈ l.pmem, x.1 < l.cfg.physMemSize) :
    (State.launch l).Sound where
  x0 := Vector.getElem_set_self _
  bhtSize := List.length_replicate
  oneBit := fun hone _ he => List.eq_of_mem_replicate he ▸ Config.predInit_le hadmitted hone
  storage := ⟨emptyLevels_sound _, hwf, hsized⟩
  idle := rfl
  heldF := rfl
  heldD := rfl
  heldE := ⟨rfl, rfl⟩
  heldM := ⟨rfl, rfl⟩
  heldW := ⟨rfl, rfl⟩

/-- No instruction is in flight and fetch is not blocked. -/
theorem launch_ordered (l : Launch) : (State.launch l).Ordered :=
  ordered_of_front (.empty _ _) forall_none forall_none forall_none forall_none fun _ hblock => by cases hblock

/-- Settles O8: the fields of `State.launch`, with every entry of a replicated table equal to the one replicated. -/
theorem launchState : Obligations.LaunchState := by
  intro l s
  have hreg : ∀ r : Reg, r ≠ 0 → readReg s r = l.regs[r.toNat]'(r.isLt) := fun r hr => by
    have hne : 0 ≠ r.toNat := fun e => hr (BitVec.eq_of_toNat_eq e.symm)
    rw [readReg, if_neg hr]
    exact Vector.getElem_set_ne (by decide) r.isLt hne
  have hlevel : ∀ lv ∈ s.storage.levels, lv.tick = 0 ∧ lv.accesses = 0 ∧ lv.hits = 0 ∧ lv.misses = 0 ∧ lv.writebacks = 0 ∧
      ∀ ws ∈ lv.sets, ∀ x ∈ ws, x.valid = false ∧ x.dirty = false ∧ x.promoted = false ∧ x.recency = 0 := fun lv hlv => by
    obtain ⟨c, -, rfl⟩ := List.mem_map.mp hlv
    refine ⟨rfl, rfl, rfl, rfl, rfl, fun ws hws x hx => ?_⟩
    rw [eq_empty_of_mem_emptyLevel hws hx]
    exact ⟨rfl, rfl, rfl, rfl⟩
  exact ⟨readReg_zero s, hreg, rfl, rfl, rfl, rfl, rfl, rfl, rfl, rfl, rfl, List.length_replicate, fun e => List.eq_of_mem_replicate,
    List.length_map _, hlevel, rfl, rfl, rfl, rfl, rfl, rfl, rfl, rfl, rfl, rfl, rfl, rfl, rfl⟩

/-- Settles O10: a launch has empty caches and an empty pipeline. -/
theorem launchIsSound : Obligations.LaunchIsSound :=
  fun l hadmitted hwf hsized => ⟨launch_sound hadmitted hwf hsized, launch_ordered l, launch_coherent l⟩

/-- Settles O9: reset is the launch with nothing loaded under the admitted standard configuration. -/
theorem resetIsSound : Obligations.ResetIsSound :=
  launchIsSound (Launch.nothing Config.standard) (by decide) Memory.wf_nil nofun

/-- Settles O20: an entry has four values and an outcome two. -/
theorem predictorMachines : Obligations.PredictorMachines := by
  unfold Obligations.PredictorMachines
  decide

end Sys2Proof.Machine
namespace Sys2Proof.Machine

/-! SUPPORT and PROOF. A cycle that does not raise, stage by stage and exactly (70_reset_and_hazards.md R410 to R432): the one state that
each stage leaves, written out over the state it began with. -/

/-! ### The stages of a cycle that does not raise -/

/-- The machine after Fetch, Decode, Execute, MemoryAccess and WriteBack in a cycle from `s` in which none of them raises. -/
structure CycleStages (s s1 s2 s3 s4 s5 : State) : Prop where
  fetchEq : fetchStage { s with sig := Signals.idle } = s1
  decodeEq : decodeStage s1 = .next s2
  executeEq : executeStage s2 = .next s3
  memoryEq : memoryStage s3 = .next s4
  writeBackEq : writeBackStage s4 = .next s5
  fetchGoes : s1.status.isFatal = false
  decodeGoes : s2.status.isFatal = false
  executeGoes : s3.status.isFatal = false
  memoryGoes : s4.status.isFatal = false
  writeBackGoes : s5.status.isFatal = false

/-- A step that does not raise goes through all five stages and ends with the update. -/
theorem step_cycleStages {s t : State} (h : step s = .next t) (ht : t.status.isFatal = false) :
    ∃ s1 s2 s3 s4 s5, CycleStages s s1 s2 s3 s4 s5 ∧ t = updatePipeline s5 := by
  obtain ⟨s1, h1, hend⟩ := cycle_next (step_next h).2
  obtain ⟨f1, s2, h2, hend⟩ := goes_on_of_not_fatal ht hend
  obtain ⟨f2, s3, h3, hend⟩ := goes_on_of_not_fatal ht hend
  obtain ⟨f3, s4, h4, hend⟩ := goes_on_of_not_fatal ht hend
  obtain ⟨f4, s5, h5, hend⟩ := goes_on_of_not_fatal ht hend
  obtain ⟨f5, ht⟩ := goes_on_of_not_fatal ht hend
  exact ⟨s1, s2, s3, s4, s5, ⟨h1, h2, h3, h4, h5, f1, f2, f3, f4, f5⟩, ht⟩

/-- A stage that goes on has gone through its own part and what follows it. -/
theorem thenStage_goes {v u : State} {f : State → State} (h : thenStage (.next v) (fun w => .next (f w)) = .next u)
    (hu : u.status.isFatal = false) : v.status.isFatal = false ∧ u = f v := by
  obtain ⟨w, hw, ⟨hfatal, rfl⟩ | ⟨hgo, he⟩⟩ := thenStage_next h <;> cases hw
  · exact absurd (hfatal.symm.trans hu) (by decide)
  · cases he
    exact ⟨hgo, rfl⟩

/-- The signals of a cycle when a stage has been entered and has reported its cost (R440, R444). -/
def Signals.enter (g : Signals) (p : Phase) (cost : Nat) : Signals := { g with phase := p, cost := max g.cost cost }

/-! ### Fetch -/

/-- What a Fetch that does not raise leaves (R411, R412). -/
theorem fetchStage_goes {s : State} (h : (fetchStage s).status.isFatal = false) :
    (s.fCur.bubble = true ∧
      fetchStage s = { s with dNxt := Snap.bubble, fNxt := { pc := s.fCur.pc, bubble := true, stall := false } }) ∨
    (s.fCur.bubble = false ∧ ∃ st v t, fetch32 s s.fCur.pc = .ok { s with storage := st } v t ∧
      fetchStage s = report (if s.cfg.chargeFetchLatency then t else 1)
        (afterFetch s.fCur.pc (fetchedWord v) { s with storage := st })) := by
  rcases fetchStage_cases s with hblocked | ⟨-, s', hacc, he⟩ | ⟨hb, s', v, t, hacc, he⟩
  · exact .inl hblocked
  · rw [he, not_raised hacc] at h
    cases h
  · obtain ⟨st, rfl, -⟩ := access_ok hacc
    exact .inr ⟨hb, st, v, t, hacc, he⟩

/-! ### Decode -/

/-- `D.nxt` after Decode of `i` (R421). -/
def decodedD (i : Instr) (s : State) : Snap DSlot := if i = .ecall then Snap.bubble else s.dNxt

/-- `F.nxt` after Decode of `i` at `pc` (R421, R422). -/
def decodedF (i : Instr) (pc : Word) (s : State) : FReg :=
  if i = .ecall then { pc := pc + 4, bubble := true, stall := false }
  else if i.isJalr then { s.fNxt with bubble := true } else s.fNxt

/-- The machine after Decode of `i` from `d` (R420 to R422). -/
def State.decoded (s : State) (i : Instr) (d : DSlot) : State :=
  { s with
    eNxt := Snap.of (decodedSlot i d (readSrc s i.srcs.1) (readSrc s i.srcs.2))
    dNxt := decodedD i s
    fNxt := decodedF i d.pc s
    sig := s.sig.enter .decode 1 }

theorem decodeStage_of_ok {s : State} {d : DSlot} {i : Instr} (hd : s.dCur.slot = some d) (hi : decode s.cfg.shamt6 d.word = .ok i) :
    decodeStage s = .next (s.decoded i d) := by
  simp only [decodeStage, hd, hi, exec_decode]
  congr 1
  cases hissue : (meaningOf i).issue with
  | plain =>
    have hcall : i ≠ .ecall := fun e => by simp [(issue_drain_iff i).mpr e] at hissue
    have hjump : ¬ i.isJalr = true := fun e => by simp [(issue_block_iff i).mpr e] at hissue
    simp only [State.decoded, decodedD, decodedF, if_neg hcall, if_neg hjump, decodePart, hissue]
    rfl
  | block =>
    have hcall : i ≠ .ecall := fun e => by simp [(issue_drain_iff i).mpr e] at hissue
    simp only [State.decoded, decodedD, decodedF, if_neg hcall, if_pos ((issue_block_iff i).mp hissue), decodePart, hissue]
    rfl
  | drain =>
    obtain rfl := (issue_drain_iff i).mp hissue
    rfl

/-- What a Decode that does not raise leaves. -/
theorem decodeStage_goes {s u : State} (h : decodeStage s = .next u) (hu : u.status.isFatal = false) :
    (s.dCur.slot = none ∧ u = { s with eNxt := Snap.bubble }) ∨
    (∃ d i, s.dCur.slot = some d ∧ decode s.cfg.shamt6 d.word = .ok i ∧ u = s.decoded i d) := by
  rcases decodeStage_cases s with ⟨hd, he⟩ | ⟨d, why, -, -, he⟩ | ⟨d, i, hd, hi, -⟩
  · cases he.symm.trans h
    exact .inl ⟨hd, rfl⟩
  · cases he.symm.trans h
    cases hu
  · cases (decodeStage_of_ok hd hi).symm.trans h
    exact .inr ⟨d, i, hd, hi, rfl⟩

/-! ### Execute -/

/-- The machine when Execute has computed `valE` and `valC` for `e` (R423). -/
def State.executed (s : State) (e : ESlot) (valE valC : Word) (ok : Bool) : State :=
  { s with
    mNxt := Snap.of { pc := e.pc, inst := e.inst, valE := valE, valC := valC, predOK := ok }
    sig := s.sig.enter .execute (costOf s.cfg.cost e.inst.op.opClass) }

/-- What an Execute of `e` that does not raise leaves (R423, R424, R430, R432). -/
inductive Executes (s : State) (e : ESlot) : State → Prop
  | holds {a c : Word} (hc : e.computed s.cfg = .value a c) (huse : loadUse e.inst.op s.eNxt.slot = true) :
    Executes s e (holdForLoad (s.executed e a c true))
  | loads {a c : Word} (hc : e.computed s.cfg = .value a c) (hload : e.inst.op.isLoad = true)
      (huse : loadUse e.inst.op s.eNxt.slot = false) : Executes s e (s.executed e a c true)
  | forwards {a c : Word} (hc : e.computed s.cfg = .value a c) (hload : e.inst.op.isLoad = false) :
    Executes s e (forward e.inst.op.dst a (s.executed e a c true))
  | predicted {taken : Bool} {actual : Word} (hc : e.computed s.cfg = .branch taken actual) (hright : taken = e.predTaken) :
    Executes s e (updatePredictor e.pc taken (s.executed e 0 0 true))
  | mispredicted {taken : Bool} {actual : Word} (hc : e.computed s.cfg = .branch taken actual) (hwrong : taken ≠ e.predTaken) :
    Executes s e (redirect actual (countHazard (updatePredictor e.pc taken (s.executed e 0 0 false))))
  | jumps {target link : Word} (hc : e.computed s.cfg = .jump target link) :
    Executes s e (redirect target (countHazard (s.executed e link 0 true)))

/-- The hold looks at the load alone, and a load forwards nothing (R423, R430, R432). -/
theorem afterExecute_of_result {i : Instr} {s : State} {x : MSlot} (hx : s.mNxt.slot = some x) :
    afterExecute i s =
      if loadUse i s.eNxt.slot then holdForLoad s else if i.isLoad then s else forward i.dst x.valE s := by
  simp only [afterExecute, hx]
  cases hload : i.isLoad with
  | true => rfl
  | false =>
    have hno : ∀ o, loadUse i o = false := fun o => by simp [loadUse, hload]
    simp [hno]

/-- A branch is no load and forwards nothing. -/
theorem afterExecute_of_isBranch {i : Instr} {s : State} {x : MSlot} (hx : s.mNxt.slot = some x) (hb : i.isBranch = true) :
    afterExecute i s = s := by
  have hload : i.isLoad = false := Bool.eq_false_iff.mpr fun hload => by
    obtain ⟨n, ha⟩ := (isLoad_iff i).mp hload
    cases (access_none_of_isBranch hb).symm.trans ha
  rw [afterExecute_of_result hx, dst_of_branch hb]
  simp [loadUse, hload, forward]

/-- What an Execute that does not raise leaves. -/
theorem executeStage_goes {s u : State} (h : executeStage s = .next u) (hu : u.status.isFatal = false) :
    (s.eCur.slot = none ∧ u = { s with mNxt := Snap.bubble }) ∨ ∃ e, s.eCur.slot = some e ∧ Executes s e u := by
  rcases executeStage_cases s with ⟨he, heq⟩ | ⟨e, he, heq⟩ <;> rw [heq] at h
  · cases h
    exact .inl ⟨he, rfl⟩
  · refine .inr ⟨e, he, ?_⟩
    obtain ⟨hgo, rfl⟩ := thenStage_goes h hu
    simp only [executePart, atPhase_eCur, he] at hgo ⊢
    generalize hout : executeOp _ _ _ _ _ _ = out at hgo ⊢
    rcases executeOp_cases hout with ⟨a, c, hc, rfl⟩ | ⟨taken, actual, hc, ⟨hright, rfl⟩ | ⟨hwrong, rfl⟩⟩ | ⟨target, link, hc, rfl⟩ | ⟨k, -, rfl⟩
    · change Executes s e (afterExecute e.inst.op (s.executed e a c true))
      rw [afterExecute_of_result rfl]
      split
      · exact .holds hc ‹_›
      · next huse =>
        split
        · exact .loads hc ‹_› (Bool.eq_false_iff.mpr huse)
        · exact .forwards hc (Bool.eq_false_iff.mpr ‹_›)
    · change Executes s e (afterExecute e.inst.op (updatePredictor e.pc taken (s.executed e 0 0 true)))
      rw [afterExecute_of_isBranch rfl (isBranch_of_branch hc)]
      exact .predicted hc hright
    · rw [afterExecute_of_bubble rfl]
      exact .mispredicted hc hwrong
    · rw [afterExecute_of_bubble rfl]
      exact .jumps hc
    · cases hgo

/-! ### The bytes that a read answers -/

theorem length_servedBuf_le {c : LevelCfg} {r : Req} (hr : r.isRead = true) (l : CacheLine) : (servedBuf c r l).length ≤ r.bytes := by
  rw [servedBuf, if_pos hr, slice, List.length_take]
  exact Nat.min_le_left ..

theorem length_memHandle_le {cfg : Config} {r : Req} {st st' : Storage} {buf : List Byte} {hit : Bool} {t : Nat} (hr : r.isRead = true)
    (he : memHandle cfg r st = .ok st' buf hit t) : buf.length ≤ r.bytes := by
  unfold memHandle at he
  split_ifs at he
  cases he
  exact (Memory.length_readBytes ..).le

/-- A read that is served delivers at most the bytes it asks for, whatever the storage. -/
theorem length_handle_le {cfg : Config} {cs : List LevelCfg} {i : Nat} {r : Req} {st st' : Storage} {buf : List Byte} {hit : Bool}
    {t : Nat} (hr : r.isRead = true) (he : handle cfg i cs r st = .ok st' buf hit t) : buf.length ≤ r.bytes := by
  cases cs with
  | nil => exact length_memHandle_le hr he
  | cons c cs =>
    rw [handle_cons] at he
    obtain ⟨st₁, hself, -⟩ := withPrefetch_ok he
    unfold atLevel at hself
    split at hself
    · exact length_memHandle_le hr hself
    · obtain ⟨-, hserves⟩ := serve_ok hself
      cases hserves with
      | hit w _ h =>
        obtain ⟨_, -, -, rfl, -, -⟩ := hitPath_ok h
        exact length_servedBuf_le hr _
      | forward _ hw => cases hr.symm.trans hw
      | allocate _ _ h =>
        obtain ⟨_, _, -, h⟩ := allocate_ok h
        obtain ⟨_, _, _, _, _, -, -, -, rfl, -, -⟩ := fillPath_ok h
        exact length_servedBuf_le hr _

/-- The value of a read of `n` bytes fits `n` bytes. -/
theorem access_value_lt {stage : Stage} {s s' : State} {a v d : Word} {n t : Nat} (hn : n ≤ 8)
    (h : access stage s a n true d = .ok s' v t) : v.toNat < 2 ^ (8 * n) := by
  rcases access_cases h with ⟨k, -, he⟩ | ⟨p, st, buf, hit, time, -, hreq, he⟩ | ⟨p, st, l, b, k, -, -, he⟩
  · cases he
  · cases he
    have hlen : buf.length ≤ n := length_handle_le (r := ⟨p, n, true, [], false⟩) rfl hreq
    rw [toNat_valueOf buf (hlen.trans hn)]
    exact (leNat_lt buf).trans_le (Nat.pow_le_pow_right (by decide) (by omega))
  · cases he

/-! ### MemoryAccess -/

/-- The value WriteBack commits for `x` when its access `op` has answered `v` (R230). -/
def MSlot.accessed (x : MSlot) (op : MemOp) (v : Word) : Word :=
  if op.isRead then BitVec.ofInt 64 (if x.inst.op.loadsUnsigned then (v.toNat : Int) else signedOf op.bytes v.toNat) else x.valE

/-- The storage, the result and the cost of a MemoryAccess of `x` that does not raise (R426, R230, R440). -/
inductive MemoryResult (s : State) (x : MSlot) : Storage → Word → Nat → Prop
  | none (ha : x.inst.op.access = none) : MemoryResult s x s.storage x.valE 1
  | access {op : MemOp} {st : Storage} {v : Word} {t : Nat} (ha : x.inst.op.access = some op)
      (hacc : access .memory s x.valE op.bytes op.isRead x.valC = .ok { s with storage := st } v t) :
    MemoryResult s x st (x.accessed op v) t

/-- What an access answers depends on the settings, the page table and the storage alone. -/
theorem access_congr {stage : Stage} {s t : State} {v d a : Word} {n time : Nat} {rd : Bool} {st : Storage} (hc : t.cfg = s.cfg)
    (hp : t.pt = s.pt) (hst : t.storage = s.storage) (h : access stage s v n rd d = .ok { s with storage := st } a time) :
    access stage t v n rd d = .ok { t with storage := st } a time := by
  rcases access_cases h with ⟨k, -, he⟩ | ⟨p, st', buf, hit, time', htr, hreq, he⟩ | ⟨p, st', l, b, k, -, -, he⟩
  · cases he
  · injection he with hs ha htime
    obtain rfl : st = st' := congrArg State.storage hs
    rw [← translate_congr hc hp] at htr
    rw [← hc, ← hst] at hreq
    simp only [access, htr, hreq, ha, htime]
  · cases he

theorem MemoryResult.congr {s t : State} {x : MSlot} {st : Storage} {res : Word} {time : Nat} (h : MemoryResult s x st res time)
    (hc : t.cfg = s.cfg) (hp : t.pt = s.pt) (hst : t.storage = s.storage) : MemoryResult t x st res time := by
  cases h with
  | none ha => exact hst ▸ .none ha
  | access ha hacc => exact .access ha (access_congr hc hp hst hacc)

theorem bytes_of_access {i : Instr} {op : MemOp} (h : i.access = some op) : 0 < op.bytes ∧ op.bytes ≤ 8 := by
  cases i <;> cases h <;> decide

/-- A load's kind of extension is the one its class names (R231 to R237). -/
theorem signed_of_load {i : Instr} {n : Nat} {signed : Bool} (h : (meaningOf i).mem = .load n signed) : signed = !i.loadsUnsigned := by
  cases i <;> cases h <;> rfl

/-- An access that is served leaves another storage and nothing else. -/
theorem access_ok_storage {stage : Stage} {s s' : State} {v d a : Word} {n t : Nat} {rd : Bool} (h : access stage s v n rd d = .ok s' a t) :
    s' = { s with storage := s'.storage } := by
  obtain ⟨st, rfl, -⟩ := access_ok h
  rfl

theorem memoryOp_goes {x : MSlot} {s s' : State} {res : Word} {t : Nat}
    (h : memoryOp (meaningOf x.inst.op) x.valE x.valC s = .done s' res t) :
    s' = { s with storage := s'.storage } ∧ MemoryResult s x s'.storage res t := by
  rcases memoryOp_cases h with ⟨hmem, he⟩ | ⟨n, signed, u, v, t, hmem, hacc, he⟩ | ⟨n, signed, u, -, -, he⟩ |
    ⟨n, u, v, t, hmem, hacc, he⟩ | ⟨n, u, -, -, he⟩ <;> cases he
  · refine ⟨rfl, .none ?_⟩
    cases ha : x.inst.op.access with
    | none => rfl
    | some op =>
      rw [mem_eq, ha] at hmem
      obtain ⟨_ | _, n⟩ := op <;> cases hmem
  · have ha := access_of_load hmem
    obtain ⟨hpos, hle⟩ := bytes_of_access ha
    have hres : extend n signed v = x.accessed ⟨true, n⟩ v := by
      rw [extend_eq_ofInt hpos (access_value_lt hle hacc), signed_of_load hmem, MSlot.accessed]
      cases x.inst.op.loadsUnsigned <;> rfl
    have hstorage := access_ok_storage hacc
    rw [hres]
    exact ⟨hstorage, .access ha (hstorage ▸ hacc)⟩
  · have hstorage := access_ok_storage hacc
    exact ⟨hstorage, .access (access_of_store hmem) (hstorage ▸ hacc)⟩

/-- The machine when MemoryAccess has finished with `x`, before it forwards the result. -/
def State.accessed (s : State) (x : MSlot) (st : Storage) (res : Word) (t : Nat) : State :=
  { s with wNxt := Snap.of { x with valE := res }, storage := st, sig := s.sig.enter .memory t }

/-- What a MemoryAccess that does not raise leaves. -/
theorem memoryStage_goes {s u : State} (h : memoryStage s = .next u) (hu : u.status.isFatal = false) :
    (s.mCur.slot = none ∧ u = { s with wNxt := Snap.bubble }) ∨
    ∃ x st res t, s.mCur.slot = some x ∧ MemoryResult s x st res t ∧ u = forward x.inst.op.dst res (s.accessed x st res t) := by
  rcases memoryStage_cases s with ⟨hm, heq⟩ | ⟨x, hm, heq⟩ <;> rw [heq] at h
  · cases h
    exact .inl ⟨hm, rfl⟩
  · obtain ⟨hgo, rfl⟩ := thenStage_goes h hu
    simp only [memoryPart, atPhase_mCur, hm] at hgo ⊢
    have hkeeps := memoryOp_keeps (meaningOf x.inst.op) x.valE x.valC (atPhase .memory s)
    cases hout : memoryOp (meaningOf x.inst.op) x.valE x.valC (atPhase .memory s) with
    | raised v =>
      rw [hout] at hkeeps hgo
      exact absurd (hkeeps.symm.trans hgo) (by decide)
    | done v res t =>
      obtain ⟨hv, hres⟩ := memoryOp_goes hout
      exact .inr ⟨x, v.storage, res, t, rfl, hres.congr rfl rfl rfl, by rw [hv]; rfl⟩

/-! ### WriteBack -/

/-- The counters when `x` has retired (R427). -/
def Counters.retired (c : Counters) (x : MSlot) : Counters :=
  { c with
    instCount := c.instCount + 1
    branchCount := c.branchCount + (if x.inst.op.isBranch then 1 else 0)
    branchCorrect := c.branchCorrect + (if x.inst.op.isBranch && x.predOK then 1 else 0) }

/-- The run status after the call of the ECALL in `x` that does not raise (R269, R270). -/
def MSlot.statusAfterCall (x : MSlot) (status : Status) : Status := if x.valC = 93 then .exited else status

/-- What a WriteBack of `x` that does not raise leaves (R427, R428, R430). -/
inductive Retires (s : State) (x : MSlot) : State → Prop
  | commits (hcall : x.inst.op ≠ .ecall) :
    Retires s x (forward x.inst.op.dst x.valE
      { s with regs := (writeDst x.inst.op.dst x.valE s).regs, ctr := s.ctr.retired x, sig := s.sig.enter .writeBack 1 })
  | calls (hcall : x.inst.op = .ecall) (regs : Vector Word 32) (out : List Event) (input : List Word) (pos : Nat) :
    Retires s x { s with
      regs := regs, out := out, input := input, inputPos := pos, status := x.statusAfterCall s.status
      fNxt := released x (x.statusAfterCall s.status) s.fNxt, ctr := s.ctr.retired x, sig := s.sig.enter .writeBack 1 }

/-- A call that does not raise changes the host state and registers, and the status by an exit alone (R262 to R270). -/
theorem syscall_goes {pc a0 a7 : Word} {s : State} (h : (syscall pc a0 a7 s).status.isFatal = false) :
    ∃ regs out input pos, syscall pc a0 a7 s =
      { s with regs := regs, out := out, input := input, inputPos := pos, status := if a7 = 93 then .exited else s.status } := by
  rcases syscall_cases pc a0 a7 s with ⟨ha, he⟩ | ⟨ha, he⟩ | ⟨ha, _, _, -, he⟩ | ⟨-, _, -, he⟩ | ⟨ha, he⟩ | ⟨ha, he⟩ |
    ⟨-, -, -, -, -, -, he⟩
  · rw [he, if_neg (by rw [ha]; decide)]
    exact ⟨_, _, _, _, rfl⟩
  · rw [he, if_neg (by rw [ha]; decide)]
    exact ⟨_, _, _, _, rfl⟩
  · rw [he, if_neg (by rw [ha]; decide)]
    exact ⟨_, _, _, _, rfl⟩
  · rw [he] at h
    cases h
  · obtain ⟨rest, hrest⟩ := nextInput_eq s
    rw [he, writeReg_eq, hrest, if_neg (by rcases ha with rfl | rfl <;> decide)]
    exact ⟨_, _, _, _, rfl⟩
  · rw [he, if_pos ha]
    exact ⟨_, _, _, _, rfl⟩
  · rw [he] at h
    cases h

theorem retired_of_not_isBranch (c : Counters) {x : MSlot} (h : x.inst.op.isBranch = false) :
    c.retired x = { c with instCount := c.instCount + 1 } := by
  simp [Counters.retired, h]

/-- What WriteBack's own part of an instruction that is no ECALL leaves. -/
theorem writeBackPart_commits {s : State} {x : MSlot} (hw : s.wCur.slot = some x) (hcall : x.inst.op ≠ .ecall) :
    writeBackPart x.inst.op (meaningOf x.inst.op) s =
      { s with regs := (writeDst x.inst.op.dst x.valE s).regs, ctr := s.ctr.retired x } := by
  have hno : (meaningOf x.inst.op).retire ≠ .syscall := fun e => hcall ((retire_syscall_iff _).mp e)
  simp only [writeBackPart, hw, hno, false_and, if_false]
  cases hb : x.inst.op.isBranch with
  | false =>
    rw [retireOp, retire_commit hb hcall, writeDst_eq, retired_of_not_isBranch _ hb]
    rfl
  | true => simp [retireOp, (retire_branch_iff _).mpr hb, dst_of_branch hb, writeDst, Counters.retired, hb, countBranch, countInst]

/-- What WriteBack's own part of an ECALL leaves. -/
theorem writeBackPart_calls {s : State} {x : MSlot} (hw : s.wCur.slot = some x) (hcall : x.inst.op = .ecall)
    (hgo : (writeBackPart x.inst.op (meaningOf x.inst.op) s).status.isFatal = false) :
    ∃ regs out input pos, writeBackPart x.inst.op (meaningOf x.inst.op) s = { s with
      regs := regs, out := out, input := input, inputPos := pos, status := x.statusAfterCall s.status
      fNxt := released x (x.statusAfterCall s.status) s.fNxt, ctr := s.ctr.retired x } := by
  rw [writeBackPart_status hw hcall] at hgo
  obtain ⟨regs, out, input, pos, he⟩ := syscall_goes hgo
  refine ⟨regs, out, input, pos, ?_⟩
  have hretire : retireOp x.inst.op (meaningOf x.inst.op) x.pc x.valE x.valC x.predOK s =
      countInst (syscall x.pc x.valE x.valC s) := by
    rw [hcall]
    exact if_neg (by simp [hgo])
  simp only [writeBackPart, hw, hretire, he, retire_syscall_iff, release_eq hcall,
    retired_of_not_isBranch s.ctr (show x.inst.op.isBranch = false by rw [hcall]; rfl)]
  rfl

/-- What a WriteBack that does not raise leaves. -/
theorem writeBackStage_goes {s u : State} (h : writeBackStage s = .next u) (hu : u.status.isFatal = false) :
    (s.wCur.slot = none ∧ u = s) ∨ ∃ x, s.wCur.slot = some x ∧ Retires s x u := by
  rcases writeBackStage_cases s with ⟨hw, heq⟩ | ⟨x, hw, heq⟩ <;> rw [heq] at h
  · cases h
    exact .inl ⟨hw, rfl⟩
  · obtain ⟨hgo, rfl⟩ := thenStage_goes h hu
    refine .inr ⟨x, hw, ?_⟩
    have hw' : (atPhase .writeBack (report 1 s)).wCur.slot = some x := hw
    by_cases hcall : x.inst.op = .ecall
    · obtain ⟨regs, out, input, pos, he⟩ := writeBackPart_calls hw' hcall hgo
      have hdst : x.inst.op.dst = none := by rw [hcall]; rfl
      rw [he, hdst]
      exact .calls hcall regs out input pos
    · rw [writeBackPart_commits hw' hcall, writeDst_regs_congr (s := s) (t := atPhase .writeBack (report 1 s)) rfl]
      exact .commits hcall

end Sys2Proof.Machine
namespace Sys2Proof.Machine

/-! SUPPORT and PROOF. What a cycle that does not raise leaves of the front of the pipeline, and where it sends fetch
(70_reset_and_hazards.md R410 to R428). -/

/-! ### What the stages leave alone -/

/-- MemoryAccess and WriteBack leave the front of the pipeline but operands, and but a fetch register that an ECALL releases. -/
structure LateFrame (u v : State) : Prop where
  wCur : v.wCur = u.wCur
  fNxt : ¬ CallIn u.wCur.slot → v.fNxt = u.fNxt
  dNxt : v.dNxt = u.dNxt
  eNxt : v.eNxt.slot.map ESlot.bare = u.eNxt.slot.map ESlot.bare
  mNxt : v.mNxt = u.mNxt
  bht : v.bht = u.bht
  hazards : v.ctr.controlHazards = u.ctr.controlHazards
  holds : v.ctr.loadUseStalls = u.ctr.loadUseStalls

theorem LateFrame.trans {u v w : State} (h : LateFrame u v) (h' : LateFrame v w) : LateFrame u w where
  wCur := h'.wCur.trans h.wCur
  fNxt := fun hno => (h'.fNxt (by rwa [h.wCur])).trans (h.fNxt hno)
  dNxt := h'.dNxt.trans h.dNxt
  eNxt := h'.eNxt.trans h.eNxt
  mNxt := h'.mNxt.trans h.mNxt
  bht := h'.bht.trans h.bht
  hazards := h'.hazards.trans h.hazards
  holds := h'.holds.trans h.holds

theorem forward_bare (d : Option Reg) (v : Word) (s : State) :
    (forward d v s).eNxt.slot.map ESlot.bare = s.eNxt.slot.map ESlot.bare := by
  obtain ⟨o, g, he, ho⟩ := forward_eq d v s
  rw [he, ← ho]

/-- Forwarding leaves all that a `LateFrame` speaks of. -/
theorem lateFrame_forward (d : Option Reg) (v : Word) (s : State) : LateFrame s (forward d v s) :=
  ⟨forward_wCur .., fun _ => forward_fNxt .., forward_dNxt .., forward_bare .., forward_mNxt .., forward_bht .., by rw [forward_ctr],
    by rw [forward_ctr]⟩

theorem lateFrame_of_memory {s u : State} (h : memoryStage s = .next u) (hu : u.status.isFatal = false) : LateFrame s u := by
  rcases memoryStage_goes h hu with ⟨-, rfl⟩ | ⟨x, st, res, t, -, -, rfl⟩
  · exact ⟨rfl, fun _ => rfl, rfl, rfl, rfl, rfl, rfl, rfl⟩
  · have hpart : LateFrame s (s.accessed x st res t) := ⟨rfl, fun _ => rfl, rfl, rfl, rfl, rfl, rfl, rfl⟩
    exact hpart.trans (lateFrame_forward ..)

theorem lateFrame_of_writeBack {s u : State} (h : writeBackStage s = .next u) (hu : u.status.isFatal = false) : LateFrame s u := by
  rcases writeBackStage_goes h hu with ⟨-, rfl⟩ | ⟨x, hx, hretires⟩
  · exact ⟨rfl, fun _ => rfl, rfl, rfl, rfl, rfl, rfl, rfl⟩
  · cases hretires with
    | commits =>
      have hpart : LateFrame s { s with
          regs := (writeDst x.inst.op.dst x.valE s).regs, ctr := s.ctr.retired x, sig := s.sig.enter .writeBack 1 } :=
        ⟨rfl, fun _ => rfl, rfl, rfl, rfl, rfl, rfl, rfl⟩
      exact hpart.trans (lateFrame_forward ..)
    | calls hcall => exact ⟨rfl, fun hno => absurd ⟨x, hx, hcall⟩ hno, rfl, rfl, rfl, rfl, rfl, rfl⟩

/-- Fetch counts nothing and trains nothing. -/
theorem FetchStep.frame {u v : State} (h : FetchStep u v) : v.ctr = u.ctr ∧ v.bht = u.bht := by
  cases h <;> exact ⟨rfl, rfl⟩

section Frames

variable {s s1 s2 s3 s4 s5 : State}

theorem CycleStages.untouched1 (c : CycleStages s s1 s2 s3 s4 s5) : Untouched s s1 := (Untouched.start s).fetch (c.fetchEq ▸ fetchStage_step _)

theorem CycleStages.untouched2 (c : CycleStages s s1 s2 s3 s4 s5) : Untouched s s2 := c.untouched1.decode (decodeStage_step c.decodeEq)

theorem CycleStages.untouched3 (c : CycleStages s s1 s2 s3 s4 s5) : Untouched s s3 :=
  c.untouched2.execute (executeStage_step c.decodeGoes c.executeEq)

theorem CycleStages.untouched4 (c : CycleStages s s1 s2 s3 s4 s5) : Untouched s s4 :=
  c.untouched3.memory (memoryStage_step c.executeGoes c.memoryEq)

theorem CycleStages.keepsCur (c : CycleStages s s1 s2 s3 s4 s5) : KeepsCur s s5 :=
  c.untouched4.writeBack (writeBackStage_step c.memoryGoes c.writeBackEq)

theorem CycleStages.status4 (c : CycleStages s s1 s2 s3 s4 s5) : s4.status = s.status :=
  c.untouched4.status.resolve_right fun hfatal => absurd (hfatal.symm.trans c.memoryGoes) (by decide)

theorem CycleStages.late (c : CycleStages s s1 s2 s3 s4 s5) : LateFrame s3 s5 :=
  (lateFrame_of_memory c.memoryEq c.memoryGoes).trans (lateFrame_of_writeBack c.writeBackEq c.writeBackGoes)

theorem CycleStages.afterFetch (c : CycleStages s s1 s2 s3 s4 s5) : AfterFetch s s1 :=
  (show FetchStep { s with sig := Signals.idle } s1 from c.fetchEq ▸ fetchStage_step _).after rfl c.fetchGoes

/-- Fetch and Decode count nothing. -/
theorem CycleStages.ctr2 (c : CycleStages s s1 s2 s3 s4 s5) : s2.ctr = s.ctr := by
  have h1 : s1.ctr = s.ctr := c.fetchEq ▸ (fetchStage_step _).frame.1
  rw [← h1]
  cases decodeStage_step c.decodeEq <;> rfl

/-- Fetch and Decode train nothing. -/
theorem CycleStages.bht2 (c : CycleStages s s1 s2 s3 s4 s5) : s2.bht = s.bht := by
  have h1 : s1.bht = s.bht := c.fetchEq ▸ (fetchStage_step _).frame.2
  rw [← h1]
  cases decodeStage_step c.decodeEq <;> rfl

/-- Decode and Execute make no access. -/
theorem CycleStages.storage3 (c : CycleStages s s1 s2 s3 s4 s5) : s3.storage = s1.storage := by
  have h2 : s2.storage = s1.storage := by cases decodeStage_step c.decodeEq <;> rfl
  rw [← h2]
  cases executeStage_step c.decodeGoes c.executeEq <;> rfl

/-- What Decode leaves, of the instruction in `D`. -/
theorem CycleStages.decoded (c : CycleStages s s1 s2 s3 s4 s5) :
    (s.dCur.slot = none ∧ s2 = { s1 with eNxt := Snap.bubble }) ∨
    ∃ d i, s.dCur.slot = some d ∧ decode s.cfg.shamt6 d.word = .ok i ∧ s2 = s1.decoded i d := by
  have h := decodeStage_goes c.decodeEq c.decodeGoes
  rwa [congrArg Snap.slot c.untouched1.dCur, congrArg Config.shamt6 c.untouched1.cfg] at h

theorem CycleStages.decoded_of_ok (c : CycleStages s s1 s2 s3 s4 s5) {d : DSlot} {i : Instr} (hd : s.dCur.slot = some d)
    (hi : decode s.cfg.shamt6 d.word = .ok i) : s2 = s1.decoded i d := by
  rw [← c.untouched1.dCur] at hd
  rw [← c.untouched1.cfg] at hi
  exact Host.Outcome.next.inj (c.decodeEq.symm.trans (decodeStage_of_ok hd hi))

/-- What Execute leaves, of the instruction in `E`. -/
theorem CycleStages.executed (c : CycleStages s s1 s2 s3 s4 s5) :
    (s.eCur.slot = none ∧ s3 = { s2 with mNxt := Snap.bubble }) ∨ ∃ e, s.eCur.slot = some e ∧ Executes s2 e s3 := by
  have h := executeStage_goes c.executeEq c.executeGoes
  rwa [congrArg Snap.slot c.untouched2.eCur] at h

theorem CycleStages.executes (c : CycleStages s s1 s2 s3 s4 s5) {e : ESlot} (he : s.eCur.slot = some e) : Executes s2 e s3 := by
  rcases c.executed with ⟨hnone, -⟩ | ⟨e', he', h⟩
  · cases he.symm.trans hnone
  · cases he.symm.trans he'
    exact h

theorem CycleStages.computed2 (c : CycleStages s s1 s2 s3 s4 s5) (e : ESlot) : e.computed s2.cfg = e.computed s.cfg := by rw [c.untouched2.cfg]

/-- What MemoryAccess leaves, of the instruction in `M`. -/
theorem CycleStages.accessed (c : CycleStages s s1 s2 s3 s4 s5) :
    (s.mCur.slot = none ∧ s4 = { s3 with wNxt := Snap.bubble }) ∨
    ∃ x st res t, s.mCur.slot = some x ∧ MemoryResult s3 x st res t ∧ s4 = forward x.inst.op.dst res (s3.accessed x st res t) := by
  have h := memoryStage_goes c.memoryEq c.memoryGoes
  rwa [congrArg Snap.slot c.untouched3.mCur] at h

/-- What WriteBack leaves, of the instruction in `W`. -/
theorem CycleStages.retired (c : CycleStages s s1 s2 s3 s4 s5) :
    (s.wCur.slot = none ∧ s5 = s4) ∨ ∃ x, s.wCur.slot = some x ∧ Retires s4 x s5 := by
  have h := writeBackStage_goes c.writeBackEq c.writeBackGoes
  rwa [congrArg Snap.slot c.untouched4.wCur] at h

theorem CycleStages.retires (c : CycleStages s s1 s2 s3 s4 s5) {x : MSlot} (hx : s.wCur.slot = some x) : Retires s4 x s5 := by
  rcases c.retired with ⟨hnone, -⟩ | ⟨x', hx', h⟩
  · cases hx.symm.trans hnone
  · cases hx.symm.trans hx'
    exact h

/-- After Decode neither `F.nxt` nor `D.nxt` is held. -/
theorem CycleStages.goes2 (c : CycleStages s s1 s2 s3 s4 s5) : s2.fNxt.stall = false ∧ s2.dNxt.stall = false := by
  have hf := c.afterFetch.goesF
  have hd := c.afterFetch.goesD
  cases decodeStage_step c.decodeEq with
  | drain => exact ⟨rfl, rfl⟩
  | _ => exact ⟨hf, hd⟩

/-- An instruction goes from `D` to `E.nxt`. -/
theorem CycleStages.issued (c : CycleStages s s1 s2 s3 s4 s5) : s2.eNxt.slot.isSome = s.dCur.slot.isSome := by
  rcases c.decoded with ⟨hd, rfl⟩ | ⟨d, i, hd, -, rfl⟩ <;> rw [hd] <;> rfl

end Frames

/-! ### What Execute does to the front -/

/-- What Execute does to the front of the pipeline: nothing, a redirect by a JALR or a branch that was guessed wrong, or the hold of a
load's reader (R423 to R425, R432). -/
inductive FrontAfter (s u : State) : Prop
  | goes (hf : u.fNxt = s.fNxt) (hd : u.dNxt = s.dNxt) (he : u.eNxt.slot.map ESlot.bare = s.eNxt.slot.map ESlot.bare)
  | redirected (e : ESlot) (target : Word) (hE : s.eCur.slot = some e)
      (hcause : e.inst.op.isJalr = true ∨ ∃ taken actual, e.computed s.cfg = .branch taken actual ∧ taken ≠ e.predTaken)
      (hf : u.fNxt = { pc := target, bubble := false, stall := false }) (he : u.eNxt.slot = none)
  | held (hcount : u.ctr.loadUseStalls = s.ctr.loadUseStalls + 1) (hf : u.fNxt.stall = true) (he : u.eNxt.slot = none)

theorem executeStage_front {s u : State} (h : executeStage s = .next u) (hu : u.status.isFatal = false) : FrontAfter s u := by
  rcases executeStage_goes h hu with ⟨-, rfl⟩ | ⟨e, he, hexec⟩
  · exact .goes rfl rfl rfl
  · cases hexec with
    | holds => exact .held rfl rfl rfl
    | loads | predicted => exact .goes rfl rfl rfl
    | forwards => exact .goes (forward_fNxt ..) (forward_dNxt ..) (forward_bare ..)
    | mispredicted hc hwrong => exact .redirected e _ he (.inr ⟨_, _, hc, hwrong⟩) rfl rfl
    | jumps hc => exact .redirected e _ he (.inl (isJalr_of_jump hc)) rfl rfl

section Front

variable {s s1 s2 s3 s4 s5 : State}

theorem CycleStages.front (c : CycleStages s s1 s2 s3 s4 s5) : FrontAfter s2 s3 := executeStage_front c.executeEq c.executeGoes

/-- Without a redirect, a hold or a release `F` and `D` become what Fetch and Decode wrote, and the instruction decoded goes on to `E`
(R413, R450). -/
theorem CycleStages.advances (c : CycleStages s s1 s2 s3 s4 s5) (hcall : ¬ CallIn s.wCur.slot) (hf : s3.fNxt = s2.fNxt)
    (hd : s3.dNxt = s2.dNxt) (he : s3.eNxt.slot.map ESlot.bare = s2.eNxt.slot.map ESlot.bare) :
    (updatePipeline s5).eCur.slot.isSome = s.dCur.slot.isSome ∧
      (updatePipeline s5).fCur = s2.fNxt ∧ (updatePipeline s5).dCur = s2.dNxt := by
  have hf5 : s5.fNxt = s2.fNxt := (c.late.fNxt (by rwa [c.untouched3.wCur])).trans hf
  have hd5 : s5.dNxt = s2.dNxt := c.late.dNxt.trans hd
  obtain ⟨hgoF, hgoD⟩ := c.goes2
  have hisSome := congrArg Option.isSome (c.late.eNxt.trans he)
  rw [Option.isSome_map, Option.isSome_map, c.issued] at hisSome
  refine ⟨hisSome, ?_, ?_⟩
  · rw [updatePipeline_fCur, hf5, hgoF, if_neg (by decide), ← hgoF]
  · rw [updatePipeline_dCur, hd5, hgoD, if_neg (by decide), ← hgoD]

/-- A redirect sends fetch to its target, unless an ECALL is released in the same cycle (R425). -/
theorem CycleStages.redirects (c : CycleStages s s1 s2 s3 s4 s5) (hcall : ¬ CallIn s.wCur.slot) {target : Word} {f : State}
    (h : s3 = redirect target f) :
    (updatePipeline s5).fCur = { pc := target, bubble := false, stall := false } ∧ (updatePipeline s5).dCur.slot = none ∧
      (updatePipeline s5).eCur.slot = none := by
  have hf5 : s5.fNxt = s3.fNxt := c.late.fNxt (by rwa [c.untouched3.wCur])
  have hd5 := c.late.dNxt
  subst h
  refine ⟨?_, ?_, eq_none_of_bare c.late.eNxt.symm rfl⟩
  · rw [updatePipeline_fCur, hf5]
    rfl
  · rw [updatePipeline_dCur, hd5]
    rfl

theorem State.Ordered.no_call_behind {e : ESlot} (hs : s.Ordered) (he : s.eCur.slot = some e) : ¬ CallIn s.wCur.slot := by
  rintro ⟨x, hx, hop⟩
  obtain ⟨-, -, hnone, -⟩ := hs.callW x hx hop
  cases he.symm.trans hnone

end Front

end Sys2Proof.Machine
namespace Sys2Proof.Machine

/-! PROOF. The statements on Decode, on control flow in the pipeline and on the predictor (70_reset_and_hazards.md R410 to R428, R465). -/

/-! ### Decode -/

/-- Settles O13: the stages are `exec` at their phases, and Fetch leaves the word in `D`. -/
theorem stepRunsDecodedInstruction : Obligations.StepRunsDecodedInstruction := by
  intro s
  refine ⟨fun d i hruns hgo hd hi => ?_, fun e he => by simp only [executeStage, he], fun x hx => by simp only [memoryStage, hx],
    fun x hx => by simp only [writeBackStage, hx]⟩
  have hfetch := (Untouched.start s).fetch (fetchStage_step { s with sig := Signals.idle })
  rw [step_runs hruns, cycle, thenStage_goes_on hgo, decodeStage, hfetch.dCur, hd, hfetch.cfg]
  simp only [hi]

/-- Settles O26: a bubble, a reject and an instruction are the three cases of Decode; an ECALL and a JALR differ in the front alone. -/
theorem decodeReadsItsOperands : Obligations.DecodeReadsItsOperands := by
  intro s
  refine ⟨fun hd => by simp only [decodeStage, hd], fun d why hd hw => decodeStage_of_reject hd hw, fun d i hd hi => ?_⟩
  refine ⟨s.decoded i d, decodeStage_of_ok hd hi, ?_, fun hcall => ?_, fun hjump => ?_, fun hcall hjump => ?_, rfl⟩
  · cases hsrcs : i.srcs with
    | mk a b => cases a <;> cases b <;> simp only [State.decoded, decodedSlot, hsrcs, readSrc, Snap.of]
  · subst hcall
    exact ⟨rfl, rfl⟩
  · have hcall : i ≠ .ecall := by rintro rfl; cases hjump
    simp [State.decoded, decodedD, decodedF, hcall, hjump]
  · simp [State.decoded, decodedD, decodedF, hcall, hjump]

/-! ### Branches and jumps in Execute -/

/-- An instruction with the outcome of a branch computes it in Execute (R200). -/
theorem computed_of_branchOutcome {e : ESlot} {taken : Bool} {actual : Word}
    (h : branchOutcome e.pc e.op1 e.op2 e.inst.op = some (taken, actual)) (cfg : Config) : e.computed cfg = .branch taken actual := by
  have hb : e.inst.op.isBranch = true := by
    cases hop : e.inst.op with
    | beq | bne | blt | bge | bltu | bgeu => rfl
    | _ => rw [hop] at h; cases h
  obtain ⟨taken', off, -, hc⟩ := exists_target_of_isBranch hb cfg e.pc e.op1 e.op2
  cases (branchOutcome_of_branch hc).symm.trans h
  exact hc

section Execute

variable {s u : State} {e : ESlot}

/-- Execute of a branch (R423). -/
theorem Executes.of_branch {taken : Bool} {actual : Word} (h : Executes s e u) (hc : e.computed s.cfg = .branch taken actual) :
    (taken = e.predTaken ∧ u = updatePredictor e.pc taken (s.executed e 0 0 true)) ∨
    (taken ≠ e.predTaken ∧ u = redirect actual (countHazard (updatePredictor e.pc taken (s.executed e 0 0 false)))) := by
  cases h with
  | holds hc' | loads hc' | forwards hc' | jumps hc' => cases hc.symm.trans hc'
  | predicted hc' hright =>
    cases hc.symm.trans hc'
    exact .inl ⟨hright, rfl⟩
  | mispredicted hc' hwrong =>
    cases hc.symm.trans hc'
    exact .inr ⟨hwrong, rfl⟩

/-- Execute of a JALR (R424). -/
theorem Executes.of_isJalr (h : Executes s e u) (hjump : e.inst.op.isJalr = true) :
    ∃ target link, e.computed s.cfg = .jump target link ∧ u = redirect target (countHazard (s.executed e link 0 true)) := by
  cases h with
  | holds hc | loads hc | forwards hc => exact absurd (hjump.symm.trans (isJalr_of_value hc)) (by decide)
  | predicted hc | mispredicted hc => exact absurd (hjump.symm.trans (isJalr_of_branch hc)) (by decide)
  | jumps hc => exact ⟨_, _, hc, rfl⟩

end Execute

/-- Settles O27: by the two cases of a branch in Execute; an ECALL at WriteBack, which would release fetch, has nothing behind it. -/
theorem mispredictionFlushes : Obligations.MispredictionFlushes := by
  intro s t e taken actual hs h ht he hout
  obtain ⟨s1, s2, s3, s4, s5, c, rfl⟩ := step_cycleStages h ht
  have hcall := hs.no_call_behind he
  have hmNxt := c.late.mNxt
  have hhazards := c.late.hazards
  rcases (c.executes he).of_branch (computed_of_branchOutcome hout s2.cfg) with ⟨hright, hs3⟩ | ⟨hwrong, hs3⟩
  · refine ⟨?_, fun hwrong => absurd hright hwrong, fun _ => ?_⟩
    · rw [updatePipeline_mCur, hmNxt, hs3, decide_eq_true hright]
      rfl
    · obtain ⟨hE, hF, hD⟩ := c.advances hcall (by rw [hs3]; rfl) (by rw [hs3]; rfl) (by rw [hs3]; rfl)
      refine ⟨?_, hE, s2, c.fetchEq ▸ c.decodeEq, hF, hD⟩
      calc s5.ctr.controlHazards = s3.ctr.controlHazards := hhazards
        _ = s2.ctr.controlHazards := by rw [hs3]; rfl
        _ = s.ctr.controlHazards := by rw [c.ctr2]
  · refine ⟨?_, fun _ => ?_, fun hright => absurd hright hwrong⟩
    · rw [updatePipeline_mCur, hmNxt, hs3, decide_eq_false hwrong]
      rfl
    · obtain ⟨hF, hD, hE⟩ := c.redirects hcall hs3
      refine ⟨hF, hD, hE, ?_⟩
      calc s5.ctr.controlHazards = s3.ctr.controlHazards := hhazards
        _ = s2.ctr.controlHazards + 1 := by rw [hs3]; rfl
        _ = s.ctr.controlHazards + 1 := by rw [c.ctr2]

/-- Where a JALR in `e` that does not raise goes, and its link (R208). -/
theorem target_of_jump {e : ESlot} {cfg : Config} {rd r1 : Reg} {imm : BitVec 12} {target link : Word} (hop : e.inst.op = .jalr rd r1 imm)
    (hc : e.computed cfg = .jump target link) :
    target = (if (e.op1 + imm.signExtend 64).toNat % 2 = 1 then e.op1 + imm.signExtend 64 - 1 else e.op1 + imm.signExtend 64) ∧
      ((e.op1 + imm.signExtend 64).toNat % 2 = 1 → cfg.jalrOdd = .clear) ∧ link = e.pc + 4 := by
  rw [ESlot.computed, hop] at hc
  rcases Nat.mod_two_eq_zero_or_one (e.op1 + imm.signExtend 64).toNat with heven | hodd
  · cases (jumpingTo_even heven).symm.trans hc
    exact ⟨(if_neg (by rw [heven]; decide)).symm, fun hodd => absurd (heven.symm.trans hodd) (by decide), rfl⟩
  · cases hcfg : cfg.jalrOdd with
    | fault => cases (jumpingTo_odd_fault hodd hcfg).symm.trans hc
    | clear =>
      cases (jumpingTo_odd_clear hodd hcfg).symm.trans hc
      exact ⟨(if_pos hodd).symm, fun _ => rfl, rfl⟩

/-- Settles O28: a JALR that does not raise computes a jump, and every jump redirects. -/
theorem jalrRedirects : Obligations.JalrRedirects := by
  intro s t e rd r1 imm hs h ht he hop
  obtain ⟨s1, s2, s3, s4, s5, c, rfl⟩ := step_cycleStages h ht
  obtain ⟨target, link, hc, hs3⟩ := (c.executes he).of_isJalr (by rw [hop]; rfl)
  rw [c.computed2] at hc
  obtain ⟨htarget, hodd, rfl⟩ := target_of_jump hop hc
  obtain ⟨hF, hD, hE⟩ := c.redirects (hs.no_call_behind he) hs3
  refine ⟨htarget ▸ hF, hodd, hD, hE, ?_, ?_⟩
  · calc s5.ctr.controlHazards = s3.ctr.controlHazards := c.late.hazards
      _ = s2.ctr.controlHazards + 1 := by rw [hs3]; rfl
      _ = s.ctr.controlHazards + 1 := by rw [c.ctr2]
  · rw [updatePipeline_mCur, c.late.mNxt, hs3]
    rfl

/-! ### ECALL -/

/-- Settles O29: nothing is behind an ECALL, so its WriteBack alone decides on `F`, and its Decode where it is not squashed. -/
theorem ecallDrainsAndReleases : Obligations.EcallDrainsAndReleases := by
  intro s t hs h ht
  obtain ⟨s1, s2, s3, s4, s5, c, rfl⟩ := step_cycleStages h ht
  refine ⟨fun d hd hi hE => ?_, fun x hx hop => ?_⟩
  · have hcall : ¬ CallIn s.wCur.slot := by
      rintro ⟨x, hx, hop⟩
      cases hd.symm.trans (hs.callW x hx hop).2.1
    have hs2 := c.decoded_of_ok hd hi
    cases c.front with
    | goes hf hD he =>
      obtain ⟨-, hF, hD⟩ := c.advances hcall hf hD he
      rw [hF, hD, hs2]
      exact ⟨rfl, rfl⟩
    | redirected _ _ _ _ _ he | held _ _ he => exact absurd (eq_none_of_bare c.late.eNxt.symm he) hE
  · obtain ⟨hb, hD, hE, -⟩ := hs.callW x hx hop
    have hfetch := c.afterFetch.blocked hb
    have hs2 := c.decoded.resolve_right fun ⟨d, _, hd, _⟩ => by cases hD.symm.trans hd
    have hs3 := c.executed.resolve_right fun ⟨e, he, _⟩ => by cases hE.symm.trans he
    have hdNxt : s5.dNxt.slot = none := by rw [c.late.dNxt, hs3.2, hs2.2]; exact hfetch.2
    have hgoD : s5.dNxt.stall = false := by rw [c.late.dNxt, hs3.2]; exact c.goes2.2
    have hdCur : (updatePipeline s5).dCur.slot = none := by rw [updatePipeline_dCur, hgoD]; exact hdNxt
    have hf4 : s4.fNxt = s1.fNxt := by
      have hmem : s4.fNxt = s3.fNxt := by
        rcases c.accessed with ⟨-, rfl⟩ | ⟨y, st, res, time, -, -, rfl⟩
        · rfl
        · exact forward_fNxt ..
      rw [hmem, hs3.2, hs2.2]
    have hstatus := c.status4.trans (step_next h).1.running
    cases c.retires hx with
    | commits hno => exact absurd hop hno
    | calls _ regs out input pos =>
      by_cases h93 : x.valC = 93
      · have hexit : x.statusAfterCall s4.status = .exited := if_pos h93
        refine .inl ⟨h93, hexit, ?_⟩
        simp [hexit, released, hf4, c.afterFetch.goesF, hfetch.1]
      · have hrun : x.statusAfterCall s4.status = .running := (if_neg h93).trans hstatus
        refine .inr ⟨h93, hrun, ?_, hdCur⟩
        simp [hrun, released]

/-! ### The fetch block -/

theorem preDecode_eq_jalr {w : InstrWord} (h : preDecode w = .jalr) : opcodeOf w = 0b1100111#7 := by
  unfold preDecode at h
  split_ifs at h with _ _ hop
  exact hop

section Block

variable {s s1 s2 s3 s4 s5 : State}

/-- A fetch that is blocked stays so through Decode (R411, R421, R422). -/
theorem CycleStages.blocked2 (c : CycleStages s s1 s2 s3 s4 s5) (hb : s.fCur.bubble = true) : s2.fNxt.bubble = true := by
  have hfetch := (c.afterFetch.blocked hb).1
  cases decodeStage_step c.decodeEq with
  | block | drain => rfl
  | _ => exact hfetch

/-- Fetch is blocked by a JALR fetched or an ECALL decoded (R411, R421); a JALR is decoded while fetch is blocked (R422). -/
theorem CycleStages.block_cause (c : CycleStages s s1 s2 s3 s4 s5) (hs : s.Ordered) (hb : s.fCur.bubble = false)
    (h2 : s2.fNxt.bubble = true) :
    JumpIn s2.dNxt.slot ∨ ∃ d, s.dCur.slot = some d ∧ decode s.cfg.shamt6 d.word = .ok .ecall := by
  have hcause := c.afterFetch.cause hb
  rcases c.decoded with ⟨-, rfl⟩ | ⟨d, i, hd, hi, rfl⟩
  · exact .inl (hcause h2)
  · by_cases hcall : i = .ecall
    · exact .inr ⟨d, hd, hcall ▸ hi⟩
    · have hjump : i.isJalr = false := Bool.eq_false_iff.mpr fun hjump =>
        absurd (hb.symm.trans (hs.jumpD d hd ((preDecode_jalr_iff hi).mpr hjump))) (by decide)
      simp only [State.decoded, decodedF, decodedD, hcall, hjump, if_false, Bool.false_eq_true] at h2 ⊢
      exact .inl (hcause h2)

/-- A hold leaves `F` as it is, unless an ECALL is released in the same cycle (R432, R450). -/
theorem CycleStages.fCur_of_held (c : CycleStages s s1 s2 s3 s4 s5) (hcall : ¬ CallIn s.wCur.slot) (hf : s3.fNxt.stall = true) :
    (updatePipeline s5).fCur = s.fCur := by
  rw [updatePipeline_fCur, c.late.fNxt (by rwa [c.untouched3.wCur]), hf, if_pos rfl, c.keepsCur.fCur]

end Block

/-- Settles O24: Fetch and Decode set the block, a redirect or the WriteBack of an ECALL clears it. -/
theorem fetchBlock : Obligations.FetchBlock := by
  refine ⟨fun s hb => by simp only [fetchStage, hb, if_true], fun s t hs h ht => ?_⟩
  obtain ⟨s1, s2, s3, s4, s5, c, rfl⟩ := step_cycleStages h ht
  refine ⟨fun hb hb' => ?_, fun hb hb' => ?_⟩
  · have hcall : ¬ CallIn s.wCur.slot := by
      rintro ⟨x, hx, hop⟩
      exact absurd (hb.symm.trans (hs.callW x hx hop).1) (by decide)
    cases c.front with
    | goes hf hd he =>
      obtain ⟨-, hF, hD⟩ := c.advances hcall hf hd he
      rw [hF] at hb'
      rw [hD]
      exact (c.block_cause hs hb hb').imp_left fun ⟨d, hd, hj⟩ => ⟨d, hd, preDecode_eq_jalr hj⟩
    | redirected e target _ _ hf =>
      rw [updatePipeline_fCur, c.late.fNxt (by rwa [c.untouched3.wCur]), hf] at hb'
      cases hb'
    | held _ hf =>
      rw [c.fCur_of_held hcall hf, hb] at hb'
      cases hb'
  · have h2 := c.blocked2 hb
    by_cases hcall : CallIn s.wCur.slot
    · obtain ⟨x, hx, hop⟩ := hcall
      rcases (ecallDrainsAndReleases s _ hs h ht).2 x hx hop with ⟨-, -, hblocked⟩ | ⟨-, -, hF, -⟩
      · exact absurd (hb'.symm.trans hblocked) (by decide)
      · exact .inr ⟨x, hx, hop, by rw [hF]⟩
    · cases c.front with
      | goes hf hd he =>
        obtain ⟨-, hF, -⟩ := c.advances hcall hf hd he
        rw [hF, h2] at hb'
        cases hb'
      | redirected e _ hE hcause =>
        exact .inl ⟨e, c.untouched2.eCur ▸ hE, hcause.imp_right fun ⟨_, _, hc, _⟩ => isBranch_of_branch hc⟩
      | held _ hf =>
        rw [c.fCur_of_held hcall hf, hb] at hb'
        cases hb'

/-! ### The predictor -/

/-- The hold and the forwarding train nothing. -/
theorem afterExecute_bht (i : Instr) (s : State) : (afterExecute i s).bht = s.bht := by
  rcases afterExecute_cases i s with ⟨_, _, -, he⟩ | ⟨-, _, _, he⟩ <;> rw [he]

/-- Execute trains the predictor for a branch alone (R465). -/
theorem executeStage_bht {s u : State} (h : executeStage s = .next u) (hno : ∀ e, s.eCur.slot = some e → e.inst.op.isBranch = false) :
    u.bht = s.bht := by
  rcases executeStage_cases s with ⟨-, heq⟩ | ⟨e, he, heq⟩ <;> rw [heq] at h
  · cases h
    rfl
  · rw [thenStage_keeps (p := State.bht) (afterExecute_bht e.inst.op) h]
    simp only [executePart, atPhase_eCur, he]
    generalize hout : executeOp _ _ _ _ _ _ = out
    rcases executeOp_cases hout with ⟨_, _, -, rfl⟩ | ⟨_, _, hc, -⟩ | ⟨_, _, -, rfl⟩ | ⟨k, -, rfl⟩
    · rfl
    · exact absurd ((hno e he).symm.trans (isBranch_of_branch hc)) (by decide)
    · rfl
    · rfl

/-- A stage trains the predictor for a branch in `E` alone, and leaves `E` as it is. -/
theorem stageAt_bht {g : Stage} {v u : State} (hv : v.status.isFatal = false) (h : stageAt g v = .next u)
    (hno : ∀ e, v.eCur.slot = some e → e.inst.op.isBranch = false) : u.bht = v.bht ∧ u.eCur = v.eCur := by
  cases g with
  | fetch =>
    have hstep : FetchStep v u := Host.Outcome.next.inj h ▸ fetchStage_step v
    cases hstep <;> exact ⟨rfl, rfl⟩
  | decode => cases decodeStage_step h <;> exact ⟨rfl, rfl⟩
  | execute => exact ⟨executeStage_bht h hno, by cases executeStage_step hv h <;> rfl⟩
  | memory => cases memoryStage_step hv h <;> exact ⟨rfl, rfl⟩
  | writeBack => cases writeBackStage_step hv h <;> exact ⟨rfl, rfl⟩

theorem runStages_bht {gs : List Stage} {t : State} : ∀ {v : State}, v.status.isFatal = false → runStages gs v = .next t →
    (∀ e, v.eCur.slot = some e → e.inst.op.isBranch = false) → t.bht = v.bht := by
  induction gs with
  | nil =>
    intro v _ h _
    cases h
    exact updatePipeline_bht ..
  | cons g gs ih =>
    intro v hv h hno
    obtain ⟨u, hu, hend⟩ := thenStage_next h
    obtain ⟨hbht, hE⟩ := stageAt_bht hv hu hno
    rcases hend with ⟨-, rfl⟩ | ⟨hgo, hrest⟩
    · exact hbht
    · exact (ih hgo hrest (hE ▸ hno)).trans hbht

/-- Settles O19: a branch in `E` trains in Execute, and no other stage trains; without one a cycle leaves the table. -/
theorem onlyBranchesTrainThePredictor : Obligations.OnlyBranchesTrainThePredictor := by
  intro s t h
  refine ⟨fun e taken actual he hout ht => ?_, fun hne => ?_⟩
  · obtain ⟨s1, s2, s3, s4, s5, c, rfl⟩ := step_cycleStages h ht
    have htrained : s3.bht = (updatePredictor e.pc taken s2).bht := by
      rcases (c.executes he).of_branch (computed_of_branchOutcome hout s2.cfg) with ⟨-, rfl⟩ | ⟨-, rfl⟩ <;> rfl
    rw [updatePipeline_bht, c.late.bht, htrained, updatePredictor_bht, bhtEntry, c.untouched2.cfg, c.bht2, bhtIndex_eq]
  · by_contra hnone
    obtain ⟨hs, hcycle⟩ := step_next h
    refine hne (runStages_bht (v := { s with sig := Signals.idle }) ?_ (cycle_eq_runStages s ▸ hcycle) fun e he => ?_)
    · exact congrArg Status.isFatal hs.running
    · exact Bool.eq_false_iff.mpr fun hb => hnone ⟨e, he, hb⟩

end Sys2Proof.Machine
namespace Sys2Proof.Machine

/-! PROOF. Instructions on their way through the pipeline, and what a cycle costs (70_reset_and_hazards.md R413, R426, R427, R440 to
R450). -/

/-! ### From register to register -/

/-- An instruction goes from `E` to `M.nxt`. -/
theorem Executes.passes {s u : State} {e : ESlot} (h : Executes s e u) : ∃ x, u.mNxt.slot = some x ∧ x.pc = e.pc ∧ x.inst = e.inst := by
  cases h with
  | forwards => exact ⟨_, by rw [forward_mNxt]; rfl, rfl, rfl⟩
  | _ => exact ⟨_, rfl, rfl, rfl⟩

section Passage

variable {s s1 s2 s3 s4 s5 : State}

/-- The access of a cycle is made on the storage that Fetch left (R426, R443). -/
theorem CycleStages.accesses (c : CycleStages s s1 s2 s3 s4 s5) {x : MSlot} (hx : s.mCur.slot = some x) :
    ∃ st res t, MemoryResult { s with storage := s1.storage } x st res t ∧ s4 = forward x.inst.op.dst res (s3.accessed x st res t) := by
  rcases c.accessed with ⟨hnone, -⟩ | ⟨x', st, res, t, hx', hres, hs4⟩
  · cases hx.symm.trans hnone
  · cases hx.symm.trans hx'
    exact ⟨st, res, t, hres.congr c.untouched3.cfg.symm c.untouched3.pt.symm c.storage3.symm, hs4⟩

/-- WriteBack leaves `W.nxt` and makes no access. -/
theorem CycleStages.afterMemory (c : CycleStages s s1 s2 s3 s4 s5) : s5.wNxt = s4.wNxt ∧ s5.storage = s4.storage := by
  cases writeBackStage_step c.memoryGoes c.writeBackEq <;> exact ⟨rfl, rfl⟩

theorem CycleStages.wCur_storage_of_idle (c : CycleStages s s1 s2 s3 s4 s5) (hx : s.mCur.slot = none) :
    s5.wNxt.slot = none ∧ s5.storage = s1.storage := by
  rcases c.accessed with ⟨-, rfl⟩ | ⟨x, _, _, _, hx', -⟩
  · exact ⟨by rw [c.afterMemory.1]; rfl, c.afterMemory.2.trans c.storage3⟩
  · cases hx.symm.trans hx'

/-- The instruction in `M` goes to `W.nxt` with the result of its access, which leaves the storage (R426). -/
theorem CycleStages.wNxt_storage (c : CycleStages s s1 s2 s3 s4 s5) {x : MSlot} (hx : s.mCur.slot = some x) :
    ∃ st res t, MemoryResult { s with storage := s1.storage } x st res t ∧ s5.wNxt.slot = some { x with valE := res } ∧
      s5.storage = st := by
  obtain ⟨st, res, t, hres, rfl⟩ := c.accesses hx
  exact ⟨st, res, t, hres, by rw [c.afterMemory.1, forward_wNxt]; rfl, by rw [c.afterMemory.2, forward_storage]; rfl⟩

/-- Before WriteBack a cycle counts hazards and holds alone. -/
theorem CycleStages.settled4 (c : CycleStages s s1 s2 s3 s4 s5) : s4.ctr.settled = s.ctr.settled := by
  have h4 : s4.ctr = s3.ctr := by cases memoryStage_step c.executeGoes c.memoryEq <;> rfl
  rw [h4, (executeStage_outcome c.executeEq).1, c.ctr2]

theorem Counters.settled_eq {c d : Counters} (h : c.settled = d.settled) : c.steps = d.steps ∧ c.cycleCount = d.cycleCount ∧
    c.instCount = d.instCount ∧ c.branchCount = d.branchCount ∧ c.branchCorrect = d.branchCorrect := by
  simpa [Counters.settled] using h

end Passage

/-- What the counters hold when `x` has left WriteBack (R427). -/
theorem Retires.ctr {s u : State} {x : MSlot} (h : Retires s x u) : u.ctr = s.ctr.retired x := by
  cases h with
  | commits => exact forward_ctr ..
  | calls => rfl

/-- A destination holds the value that WriteBack commits (R427). -/
theorem Retires.readReg {s u : State} {x : MSlot} (h : Retires s x u) {r : Reg} (hdst : x.inst.op.dst = some r) (hr : r ≠ 0) :
    readReg u r = x.valE := by
  cases h with
  | commits =>
    rw [hdst, readReg_congr (forward_regs ..)]
    exact readReg_writeReg_same s hr _
  | calls hcall =>
    rw [hcall] at hdst
    cases hdst

/-- Settles O35: what Execute does to the front is nothing in a quiet cycle, and the later registers advance in every cycle. -/
theorem instructionsAdvanceAndRetire : Obligations.InstructionsAdvanceAndRetire := by
  intro s t hs h ht
  obtain ⟨s1, s2, s3, s4, s5, c, rfl⟩ := step_cycleStages h ht
  rw [c.fetchEq]
  refine ⟨fun hquiet hcount hcall => ?_, fun he => ?_, fun e he => ?_, fun hx => ?_, fun x hx ha => ?_, fun x op hx ha => ?_,
    fun hx => ?_, fun x hx => ?_⟩
  · cases c.front with
    | goes hf hd he =>
      obtain ⟨hE, hF, hD⟩ := c.advances (fun ⟨x, hx, hop⟩ => hcall x hx hop) hf hd he
      exact ⟨hE, s2, c.decodeEq, hF, hD⟩
    | redirected e _ hE hcause =>
      obtain ⟨hjump, hguess⟩ := hquiet e (c.untouched2.eCur ▸ hE)
      rcases hcause with hj | ⟨taken, actual, hc, hwrong⟩
      · exact absurd (hjump.symm.trans hj) (by decide)
      · exact absurd (hguess taken actual (branchOutcome_of_branch hc)) hwrong
    | held hheld =>
      have hsame : s5.ctr.loadUseStalls = s.ctr.loadUseStalls := hcount
      rw [c.late.holds, hheld, c.ctr2] at hsame
      omega
  · rw [updatePipeline_mCur, c.late.mNxt]
    rcases c.executed with ⟨-, rfl⟩ | ⟨e, he', -⟩
    · rfl
    · cases he.symm.trans he'
  · rw [updatePipeline_mCur, c.late.mNxt]
    exact (c.executes he).passes
  · exact c.wCur_storage_of_idle hx
  · obtain ⟨st, res, time, hres, hw, hst⟩ := c.wNxt_storage hx
    rw [updatePipeline_wCur, updatePipeline_storage, hw, hst]
    cases hres with
    | none => exact ⟨rfl, rfl⟩
    | access ha' => cases ha.symm.trans ha'
  · obtain ⟨st, res, time, hres, hw, hst⟩ := c.wNxt_storage hx
    rw [updatePipeline_wCur, updatePipeline_storage, hw, hst]
    cases hres with
    | none ha' => cases ha.symm.trans ha'
    | access ha' hacc =>
      cases ha.symm.trans ha'
      exact ⟨_, _, _, hacc, rfl, rfl⟩
  · obtain ⟨-, -, hinst, hbranch, hcorrect⟩ := Counters.settled_eq c.settled4
    rcases c.retired with ⟨-, rfl⟩ | ⟨x, hx', -⟩
    · exact ⟨c.untouched4.regs, hinst, hbranch, hcorrect⟩
    · cases hx.symm.trans hx'
  · obtain ⟨-, -, hinst, hbranch, hcorrect⟩ := Counters.settled_eq c.settled4
    have hretires := c.retires hx
    simp only [updatePipeline_ctr, hretires.ctr, Counters.retired, hinst, hbranch, hcorrect, and_self, and_true]
    exact fun r hdst hr => hretires.readReg hdst hr

/-! ### The cost of a cycle -/

@[simp] theorem forward_cost (d : Option Reg) (v : Word) (s : State) : (forward d v s).sig.cost = s.sig.cost := by
  unfold forward
  split <;> rfl

/-- Execute reports the cost of the class of its instruction (R440, R442). -/
theorem Executes.cost {s u : State} {e : ESlot} (h : Executes s e u) :
    u.sig.cost = max s.sig.cost (costOf s.cfg.cost e.inst.op.opClass) := by
  cases h with
  | forwards => exact forward_cost ..
  | _ => rfl

theorem Retires.cost {s u : State} {x : MSlot} (h : Retires s x u) : u.sig.cost = max s.sig.cost 1 := by
  cases h with
  | commits => exact forward_cost ..
  | calls => rfl

section Cost

variable {s s1 s2 s3 s4 s5 : State}

/-- Fetch reports its cost, and its access does not look at the signals. -/
theorem CycleStages.cost1 (c : CycleStages s s1 s2 s3 s4 s5) : s1.sig.cost = fetchCost s ∧ (fetchStage s).storage = s1.storage := by
  have hgoes := c.fetchGoes
  rw [← c.fetchEq] at hgoes ⊢
  rcases fetchStage_goes hgoes with ⟨hb, he⟩ | ⟨hb, st, v, t, hacc, he⟩
  · change s.fCur.bubble = true at hb
    rw [he]
    simp only [fetchCost, fetchStage, hb, if_true, and_true]
    rfl
  · change s.fCur.bubble = false at hb
    have hacc' : fetch32 s s.fCur.pc = .ok { s with storage := st } v t :=
      access_congr (s := { s with sig := Signals.idle }) rfl rfl rfl hacc
    rw [he]
    simp only [fetchCost, fetchStage, hb, hacc', Bool.false_eq_true, if_false]
    exact ⟨Nat.zero_max .., rfl⟩

theorem CycleStages.cost2 (c : CycleStages s s1 s2 s3 s4 s5) : s2.sig.cost = max s1.sig.cost (activeCost s.dCur.slot) := by
  rcases c.decoded with ⟨hd, rfl⟩ | ⟨d, i, hd, -, rfl⟩ <;> rw [hd]
  · exact (Nat.max_zero ..).symm
  · rfl

theorem CycleStages.cost3 (c : CycleStages s s1 s2 s3 s4 s5) : s3.sig.cost = max s2.sig.cost (executeCost s) := by
  rcases c.executed with ⟨he, rfl⟩ | ⟨e, he, hexec⟩ <;> simp only [executeCost, he]
  · exact (Nat.max_zero ..).symm
  · rw [hexec.cost, c.untouched2.cfg]

/-- What MemoryAccess reports of an access that is served (R440, R443). -/
theorem memoryCost_of_result {x : MSlot} {st : Storage} {res : Word} {t : Nat} (hx : s.mCur.slot = some x)
    (hres : MemoryResult { s with storage := (fetchStage s).storage } x st res t) : memoryCost s = t := by
  cases hres with
  | none ha => simp only [memoryCost, hx, ha]
  | access ha hacc => simp only [memoryCost, hx, ha, hacc]

theorem CycleStages.cost4 (c : CycleStages s s1 s2 s3 s4 s5) : s4.sig.cost = max s3.sig.cost (memoryCost s) := by
  cases hx : s.mCur.slot with
  | none =>
    rcases c.accessed with ⟨-, rfl⟩ | ⟨x, _, _, _, hx', -⟩
    · simp only [memoryCost, hx]
      exact (Nat.max_zero ..).symm
    · cases hx.symm.trans hx'
  | some x =>
    obtain ⟨st, res, t, hres, rfl⟩ := c.accesses hx
    rw [forward_cost, memoryCost_of_result hx (c.cost1.2 ▸ hres)]
    rfl

theorem CycleStages.cost5 (c : CycleStages s s1 s2 s3 s4 s5) : s5.sig.cost = max s4.sig.cost (activeCost s.wCur.slot) := by
  rcases c.retired with ⟨hx, rfl⟩ | ⟨x, hx, hretires⟩ <;> rw [hx]
  · exact (Nat.max_zero ..).symm
  · exact hretires.cost

/-- WriteBack leaves the counters of cycles and steps to the update. -/
theorem CycleStages.cycles5 (c : CycleStages s s1 s2 s3 s4 s5) :
    s5.ctr.steps = s.ctr.steps ∧ s5.ctr.cycleCount = s.ctr.cycleCount := by
  obtain ⟨hsteps, hcycles, -⟩ := Counters.settled_eq c.settled4
  rw [← hsteps, ← hcycles]
  rcases c.retired with ⟨-, rfl⟩ | ⟨x, -, hretires⟩
  · exact ⟨rfl, rfl⟩
  · rw [hretires.ctr]
    exact ⟨rfl, rfl⟩

end Cost

/-- Settles O32: each stage raises the cycle's cost to its own, and the update adds it. -/
theorem step_cycleCost : Obligations.CycleCost := by
  intro s t h ht
  obtain ⟨s1, s2, s3, s4, s5, c, rfl⟩ := step_cycleStages h ht
  obtain ⟨hsteps, hcycles⟩ := c.cycles5
  have hcost := c.cost5
  rw [c.cost4, c.cost3, c.cost2, c.cost1.1] at hcost
  simp only [updatePipeline_ctr, cycleCost, hsteps, hcycles, hcost, true_and]
  omega

end Sys2Proof.Machine
namespace Sys2Proof.Machine

/-! PROOF. Forwarding and the load-use hold (70_reset_and_hazards.md R430 to R432). -/

/-! ### The operands that wait in `E.nxt` -/

/-- What a producer of `v` for `dst` offers to a source that has no value yet (R430). -/
def offer (dst src : Option Reg) (v : Word) : Option Word := dst.bind fun r => if forwardsTo r src false then some v else none

theorem offer_none_left (src : Option Reg) (v : Word) : offer none src v = none := rfl

/-- An offer names its source, which is not `x0`. -/
theorem offer_some (dst : Option Reg) (r : Reg) (v : Word) : offer dst (some r) v = if r ≠ 0 ∧ dst = some r then some v else none := by
  cases dst with
  | none => simp [offer]
  | some q =>
    by_cases hq : q = r
    · simp [offer, forwardsTo, hq]
    · simp [offer, forwardsTo, hq, Ne.symm hq]

theorem offer_none_right (dst : Option Reg) (v : Word) : offer dst none v = none := by cases dst <;> simp [offer, forwardsTo]

/-- `E.nxt` holds the instruction `i` from `d`; its sources hold what was forwarded to them, `g1` and `g2`, else `a` and `b`. -/
structure Operands (i : Instr) (d : DSlot) (a b : Word) (u : State) (g1 g2 : Option Word) : Prop where
  slot : u.eNxt.slot = some (decodedSlot i d (g1.getD a) (g2.getD b))
  fwd1 : u.sig.fwd1 = g1.isSome
  fwd2 : u.sig.fwd2 = g2.isSome

/-- A source takes the first offer and marks that it has. -/
theorem forwardsTo_isSome (r : Reg) (src : Option Reg) (v a : Word) (g : Option Word) :
    (if forwardsTo r src g.isSome then v else g.getD a) = (g.or (offer (some r) src v)).getD a ∧
      (g.isSome || forwardsTo r src g.isSome) = (g.or (offer (some r) src v)).isSome := by
  cases g with
  | some w => simp [forwardsTo]
  | none => cases h : forwardsTo r src false <;> simp [offer, h]

section Operands

variable {i : Instr} {d : DSlot} {a b : Word} {g1 g2 : Option Word} {u v : State}

theorem Operands.congr (h : Operands i d a b u g1 g2) (hslot : v.eNxt = u.eNxt) (h1 : v.sig.fwd1 = u.sig.fwd1)
    (h2 : v.sig.fwd2 = u.sig.fwd2) : Operands i d a b v g1 g2 :=
  ⟨hslot ▸ h.slot, h1.trans h.fwd1, h2.trans h.fwd2⟩

/-- A source without a value takes what is forwarded to it. -/
theorem Operands.forward (h : Operands i d a b u g1 g2) (dst : Option Reg) (w : Word) (hslot : v.eNxt = u.eNxt)
    (h1 : v.sig.fwd1 = u.sig.fwd1) (h2 : v.sig.fwd2 = u.sig.fwd2) :
    Operands i d a b (forward dst w v) (g1.or (offer dst i.srcs.1 w)) (g2.or (offer dst i.srcs.2 w)) := by
  have h := h.congr hslot h1 h2
  cases dst with
  | none =>
    simp only [offer_none_left, Option.or_none]
    exact h
  | some r =>
    obtain ⟨hval1, hfwd1⟩ := forwardsTo_isSome r i.srcs.1 w a g1
    obtain ⟨hval2, hfwd2⟩ := forwardsTo_isSome r i.srcs.2 w b g2
    constructor
    · simp only [Machine.forward, h.slot, h.fwd1, h.fwd2, decodedSlot, hval1, hval2]
    · simp only [Machine.forward, h.slot, h.fwd1, decodedSlot, hfwd1]
    · simp only [Machine.forward, h.slot, h.fwd2, decodedSlot, hfwd2]

end Operands

/-! ### What the stages forward -/

/-- A load that is no hazard writes no source of the instruction behind it. -/
theorem offer_of_loadUse {i j : Instr} {d : DSlot} {a b v : Word} (hload : i.isLoad = true)
    (h : loadUse i (some (decodedSlot j d a b)) = false) : offer i.dst j.srcs.1 v = none ∧ offer i.dst j.srcs.2 v = none := by
  cases hdst : i.dst with
  | none => exact ⟨rfl, rfl⟩
  | some r =>
    simp only [loadUse, hload, hdst, decodedSlot, Bool.true_and] at h
    simp only [offer, forwardsTo, Option.bind_some, Bool.not_false, Bool.and_true]
    cases hr : r != 0 <;> simp_all

section Forwarding

variable {i : Instr} {d : DSlot} {a b : Word} {g1 g2 : Option Word} {s u : State}

/-- An Execute that squashes nothing offers the result on its way to MemoryAccess (R423, R430). -/
theorem Executes.offers {e : ESlot} (h : Executes s e u) (hop : Operands i d a b s g1 g2) (hgoes : u.eNxt.slot ≠ none) :
    ∃ w, u.mNxt.slot.map MSlot.valE = some w ∧
      Operands i d a b u (g1.or (offer e.inst.op.dst i.srcs.1 w)) (g2.or (offer e.inst.op.dst i.srcs.2 w)) := by
  cases h with
  | holds | mispredicted | jumps => exact absurd rfl hgoes
  | @loads w _ _ hload huse =>
    obtain ⟨h1, h2⟩ := offer_of_loadUse (v := w) hload (hop.slot ▸ huse)
    exact ⟨w, rfl, by rw [h1, h2, Option.or_none, Option.or_none]; exact hop.congr rfl rfl rfl⟩
  | @forwards w => exact ⟨w, by rw [forward_mNxt]; rfl, hop.forward _ _ rfl rfl rfl⟩
  | predicted hc =>
    refine ⟨0, rfl, ?_⟩
    rw [dst_of_branch (isBranch_of_branch hc), offer_none_left, offer_none_left, Option.or_none, Option.or_none]
    exact hop.congr rfl rfl rfl

theorem Retires.offers {x : MSlot} (h : Retires s x u) (hop : Operands i d a b s g1 g2) :
    Operands i d a b u (g1.or (offer x.inst.op.dst i.srcs.1 x.valE)) (g2.or (offer x.inst.op.dst i.srcs.2 x.valE)) := by
  cases h with
  | commits => exact hop.forward _ _ rfl rfl rfl
  | calls hcall =>
    have hdst : x.inst.op.dst = none := by rw [hcall]; rfl
    rw [hdst, offer_none_left, offer_none_left, Option.or_none, Option.or_none]
    exact hop.congr rfl rfl rfl

end Forwarding

/-! ### The newest value -/

/-- What Execute forwards to a source in the cycle from `s` to `t`. -/
def offerE (s t : State) (src : Option Reg) : Option Word :=
  offer (s.eCur.slot.bind fun e => e.inst.op.dst) src ((t.mCur.slot.map MSlot.valE).getD 0)

/-- What MemoryAccess forwards to a source in the cycle from `s` to `t`. -/
def offerM (s t : State) (src : Option Reg) : Option Word :=
  offer (s.mCur.slot.bind fun x => x.inst.op.dst) src ((t.wCur.slot.map MSlot.valE).getD 0)

/-- What WriteBack forwards to a source in a cycle from `s`. -/
def offerW (s : State) (src : Option Reg) : Option Word :=
  offer (s.wCur.slot.bind fun x => x.inst.op.dst) src ((s.wCur.slot.map MSlot.valE).getD 0)

/-- What is forwarded to a source in the cycle from `s` to `t`, the youngest producer first (R430, R431). -/
def forwarded (s t : State) (src : Option Reg) : Option Word := ((offerE s t src).or (offerM s t src)).or (offerW s src)

theorem forwarded_none (s t : State) : forwarded s t none = none := by
  simp only [forwarded, offerE, offerM, offerW, offer_none_right, Option.or_none]

/-- The first that is forwarded, else the register, is the newest value. -/
theorem forwarded_getD (s t : State) (r : Reg) : (forwarded s t (some r)).getD (readReg s r) = newestValue s t r := by
  by_cases hr : r = 0
  · simp [forwarded, offerE, offerM, offerW, newestValue, offer_some, hr]
  · simp only [forwarded, offerE, offerM, offerW, newestValue, offer_some, hr, ne_eq, not_false_eq_true, true_and, if_false]
    split_ifs <;> rfl

section Cycle

variable {s s1 s2 s3 s4 s5 : State} {i : Instr} {d : DSlot} {a b : Word} {g1 g2 : Option Word}

/-- Decode finds no source marked, and reads the registers. -/
theorem CycleStages.operands2 (c : CycleStages s s1 s2 s3 s4 s5) (hd : s.dCur.slot = some d) (hi : decode s.cfg.shamt6 d.word = .ok i) :
    Operands i d (readSrc s i.srcs.1) (readSrc s i.srcs.2) s2 none none := by
  have hmarks : s1.sig.fwd1 = false ∧ s1.sig.fwd2 = false := by
    have hgoes := c.fetchGoes
    rw [← c.fetchEq] at hgoes ⊢
    rcases fetchStage_goes hgoes with ⟨-, he⟩ | ⟨-, _, _, _, -, he⟩ <;> rw [he] <;> exact ⟨rfl, rfl⟩
  rw [c.decoded_of_ok hd hi]
  refine ⟨?_, hmarks.1, hmarks.2⟩
  simp only [State.decoded, readSrc_congr c.untouched1.regs]
  rfl

theorem CycleStages.operands3 (c : CycleStages s s1 s2 s3 s4 s5) (hop : Operands i d a b s2 g1 g2) (hgoes : s3.eNxt.slot ≠ none) :
    Operands i d a b s3 (g1.or (offerE s (updatePipeline s5) i.srcs.1)) (g2.or (offerE s (updatePipeline s5) i.srcs.2)) := by
  simp only [offerE, updatePipeline_mCur, c.late.mNxt]
  rcases c.executed with ⟨he, rfl⟩ | ⟨e, he, hexec⟩ <;> rw [he]
  · simp only [Option.bind_none, offer_none_left, Option.or_none]
    exact hop.congr rfl rfl rfl
  · obtain ⟨w, hw, hop'⟩ := hexec.offers hop hgoes
    rw [hw]
    exact hop'

theorem CycleStages.operands4 (c : CycleStages s s1 s2 s3 s4 s5) (hop : Operands i d a b s3 g1 g2) :
    Operands i d a b s4 (g1.or (offerM s (updatePipeline s5) i.srcs.1)) (g2.or (offerM s (updatePipeline s5) i.srcs.2)) := by
  simp only [offerM, updatePipeline_wCur, c.afterMemory.1]
  rcases c.accessed with ⟨hx, rfl⟩ | ⟨x, st, res, t, hx, -, rfl⟩ <;> rw [hx]
  · simp only [Option.bind_none, offer_none_left, Option.or_none]
    exact hop.congr rfl rfl rfl
  · rw [forward_wNxt]
    exact hop.forward _ _ rfl rfl rfl

theorem CycleStages.operands5 (c : CycleStages s s1 s2 s3 s4 s5) (hop : Operands i d a b s4 g1 g2) :
    Operands i d a b s5 (g1.or (offerW s i.srcs.1)) (g2.or (offerW s i.srcs.2)) := by
  rcases c.retired with ⟨hx, rfl⟩ | ⟨x, hx, hretires⟩ <;> rw [offerW, offerW, hx]
  · simpa only [Option.bind_none, offer_none_left, Option.or_none] using hop
  · exact hretires.offers hop

/-- What goes on from Decode to Execute has its operands forwarded by the three stages in turn. -/
theorem CycleStages.operands (c : CycleStages s s1 s2 s3 s4 s5) (hd : s.dCur.slot = some d) (hi : decode s.cfg.shamt6 d.word = .ok i)
    (hgoes : s5.eNxt.slot ≠ none) :
    Operands i d (readSrc s i.srcs.1) (readSrc s i.srcs.2) s5 (forwarded s (updatePipeline s5) i.srcs.1)
      (forwarded s (updatePipeline s5) i.srcs.2) := by
  have hgoes3 : s3.eNxt.slot ≠ none := fun hnone => hgoes (eq_none_of_bare c.late.eNxt.symm hnone)
  simpa only [Option.none_or, forwarded] using c.operands5 (c.operands4 (c.operands3 (c.operands2 hd hi) hgoes3))

end Cycle

/-- The value of a source: the newest of its register. -/
theorem operand_eq_newestValue {s t : State} {src : Option Reg} {r : Reg} (h : src = some r) :
    (forwarded s t src).getD (readSrc s src) = newestValue s t r := by
  subst h
  exact forwarded_getD s t r

/-- An absent source is 0. -/
theorem operand_none {s t : State} {src : Option Reg} (h : src = none) : (forwarded s t src).getD (readSrc s src) = 0 := by
  subst h
  rw [forwarded_none]
  rfl

/-- Settles O31: the stages offer their values youngest first, and each source takes the first for its register. -/
theorem forwardingGivesTheNewestValue : Obligations.ForwardingGivesTheNewestValue := by
  intro s t d i e h ht hd hi he
  obtain ⟨s1, s2, s3, s4, s5, c, rfl⟩ := step_cycleStages h ht
  have hop := c.operands hd hi (by rw [← updatePipeline_eCur, he]; exact Option.some_ne_none e)
  cases hop.slot.symm.trans he
  exact ⟨rfl, rfl, fun r hr => operand_eq_newestValue hr, fun r hr => operand_eq_newestValue hr, operand_none, operand_none⟩

/-! ### The load-use hold -/

/-- A load with its reader behind it is a hazard (R432). -/
theorem loadUse_of_reads {i j : Instr} {d : DSlot} {a b : Word} {r : Reg} (hload : i.isLoad = true) (hdst : i.dst = some r) (hr : r ≠ 0)
    (hreads : j.srcs.1 = some r ∨ j.srcs.2 = some r) : loadUse i (some (decodedSlot j d a b)) = true := by
  simpa [loadUse, hload, hdst, decodedSlot] using And.intro hr hreads

/-- Execute of a load with its reader behind it holds the reader (R423, R432). -/
theorem Executes.of_loadUse {s u : State} {e : ESlot} (h : Executes s e u) (huse : loadUse e.inst.op s.eNxt.slot = true) :
    ∃ v c, u = holdForLoad (s.executed e v c true) := by
  have hload := isLoad_of_loadUse huse
  obtain ⟨n, ha⟩ := (isLoad_iff _).mp hload
  cases h with
  | holds => exact ⟨_, _, rfl⟩
  | loads _ _ hno => exact absurd (huse.symm.trans hno) (by decide)
  | forwards _ hno => exact absurd (hload.symm.trans hno) (by decide)
  | predicted hc | mispredicted hc => cases (access_none_of_isBranch (isBranch_of_branch hc)).symm.trans ha
  | jumps hc => cases (access_none_of_isJalr (isJalr_of_jump hc)).symm.trans ha

section Hold

variable {s s1 s2 s3 s4 s5 : State}

/-- With a bubble in `E` nothing holds or redirects the instruction decoded. -/
theorem CycleStages.goes_of_idle (c : CycleStages s s1 s2 s3 s4 s5) (he : s.eCur.slot = none) :
    s5.eNxt.slot.isSome = s.dCur.slot.isSome ∧ s5.ctr.loadUseStalls = s.ctr.loadUseStalls := by
  have hs3 := c.executed.resolve_right fun ⟨e, he', _⟩ => by cases he.symm.trans he'
  have hE := congrArg Option.isSome c.late.eNxt
  have hholds := c.late.holds
  rw [hs3.2, Option.isSome_map, Option.isSome_map] at hE
  rw [hs3.2, c.ctr2] at hholds
  exact ⟨hE.trans c.issued, hholds⟩

end Hold

/-- Settles O30: the load is a hazard for the instruction decoded, which comes back to Decode with the load in `M` and nothing between. -/
theorem loadUseHoldsOneCycle : Obligations.LoadUseHoldsOneCycle := by
  intro s t e d i r hs h ht he hload hdst hr hd hi hreads
  obtain ⟨s1, s2, s3, s4, s5, c, rfl⟩ := step_cycleStages h ht
  have hcall := hs.no_call_behind he
  obtain ⟨v, w, hs3⟩ := (c.executes he).of_loadUse (by rw [c.decoded_of_ok hd hi]; exact loadUse_of_reads hload hdst hr hreads)
  have hD : (updatePipeline s5).dCur = s.dCur := by
    have hheld : s3.dNxt.stall = true := by rw [hs3]; rfl
    rw [updatePipeline_dCur, c.late.dNxt, hheld, if_pos rfl, c.keepsCur.dCur]
  have hE : (updatePipeline s5).eCur.slot = none := eq_none_of_bare c.late.eNxt.symm (by rw [hs3]; rfl)
  have hM : ∃ y, (updatePipeline s5).mCur.slot = some y ∧ y.inst = e.inst := by
    obtain ⟨y, hy, -, hinst⟩ := (c.executes he).passes
    exact ⟨y, by rw [updatePipeline_mCur, c.late.mNxt, hy], hinst⟩
  have hcount : (updatePipeline s5).ctr.loadUseStalls = s.ctr.loadUseStalls + 1 :=
    calc s5.ctr.loadUseStalls = s3.ctr.loadUseStalls := c.late.holds
      _ = s2.ctr.loadUseStalls + 1 := by rw [hs3]; rfl
      _ = s.ctr.loadUseStalls + 1 := by rw [c.ctr2]
  have hcfg : (updatePipeline s5).cfg = s.cfg := c.keepsCur.cfg
  refine ⟨c.fCur_of_held hcall (by rw [hs3]; rfl), hD, hE, hcount, fun u hu hgo => ?_⟩
  obtain ⟨y, hy, hinst⟩ := hM
  generalize updatePipeline s5 = t at hu hD hE hy hcfg
  obtain ⟨t1, t2, t3, t4, t5, c', rfl⟩ := step_cycleStages hu hgo
  obtain ⟨hgoes, hholds⟩ := c'.goes_of_idle hE
  have hdt : t.dCur.slot = some d := hD ▸ hd
  rw [hdt] at hgoes
  obtain ⟨f, hf⟩ := Option.isSome_iff_exists.mp hgoes
  obtain ⟨st, res, time, -, hw, -⟩ := c'.wNxt_storage hy
  obtain ⟨hfinst, -, hop1, hop2, -⟩ := forwardingGivesTheNewestValue t _ d i f hu hgo hdt (hcfg.symm ▸ hi) hf
  have hnewest : newestValue t (updatePipeline t5) r = res := by
    rw [newestValue, if_neg hr, hE, hy, if_neg (by simp), if_pos (by rw [Option.bind_some, hinst, hdst]), updatePipeline_wCur, hw]
    rfl
  exact ⟨hholds, f, { y with valE := res }, hf, by rw [hfinst], hw, hinst, fun h1 => (hop1 r h1).trans hnewest,
    fun h2 => (hop2 r h2).trans hnewest⟩

end Sys2Proof.Machine
namespace Sys2Proof.Machine

/-! PROOF. Fetch reads the view (70_reset_and_hazards.md R412; 20_memory.md R91, R95, R97). -/

/-- A fetch inside one line and inside memory reads the bytes of the view and leaves the view as it is. -/
theorem fetch32_answersView {s : State} {pc : Word} {p : Nat} (h : Accessible s pc 4 p) :
    ∃ st t, fetch32 s pc = .ok { s with storage := st } (valueOf ((List.range 4).map fun k => s.view (p + k))) t ∧
      ∀ q, st.view s.cfg q = s.view q := by
  obtain ⟨st, buf, hit, t, hacc, hreq⟩ := access_served h .fetch true 0
  obtain ⟨rfl, hview, -⟩ := readsReturnTheView _ _ _ _ _ _ _ h.storage.admitted h.storage.sound h.storage.coherent rfl hreq
  exact ⟨st, t, hacc, hview⟩

/-- The word fetched is the little-endian number of its bytes (R91, R95). -/
theorem fetchedWord_valueOf (bs : List Byte) (h : bs.length ≤ 8) : fetchedWord (valueOf bs) = BitVec.ofNat 32 (leNat bs) := by
  rw [fetchedWord, ← toNat_valueOf bs h, BitVec.ofNat_toNat]

/-- Fetch's choice of the next address, from the opcode (R412). -/
theorem nextFetch_preDecode (s : State) (pc : Word) (w : InstrWord) :
    nextFetch s pc (preDecode w) =
      { predTaken := decide (opcodeOf w = 0b1100011#7 ∧ predict s pc = true)
        next := if opcodeOf w = 0b1100011#7 ∧ predict s pc = true then pc + (immSBOf w).signExtend 64
          else if opcodeOf w = 0b1101111#7 then pc + (immUJOf w).signExtend 64 else pc + 4
        block := decide (opcodeOf w = 0b1100111#7) } := by
  by_cases hbranch : opcodeOf w = 0b1100011#7
  · rw [preDecode, if_pos hbranch]
    cases hguess : predict s pc <;> simp [nextFetch, hbranch, hguess, immSB]
  · by_cases hjal : opcodeOf w = 0b1101111#7
    · simp [preDecode, nextFetch, hjal, immUJ]
    · by_cases hjalr : opcodeOf w = 0b1100111#7
      · simp [preDecode, nextFetch, hjalr]
      · simp [preDecode, nextFetch, hbranch, hjal, hjalr]

/-- Settles O25: the request of Fetch is served from the view, and the word decides where Fetch goes on. -/
theorem fetchReadsTheView : Obligations.FetchReadsTheView := by
  intro s p hadm hs hco hdiv hsafe hb htr hline hmem
  have hacc : Accessible s s.fCur.pc 4 p := ⟨⟨hadm, hs.storage, hco⟩, hdiv, hsafe, htr, hline, hmem, by decide⟩
  obtain ⟨st, t, hfetch, hview⟩ := fetch32_answersView hacc
  have hword : fetchedWord (valueOf ((List.range 4).map fun k => s.view (p + k))) =
      BitVec.ofNat 32 (leNat [s.view p, s.view (p + 1), s.view (p + 2), s.view (p + 3)]) := fetchedWord_valueOf _ (by simp)
  simp only [fetchStage, hb, hfetch, hword, Bool.false_eq_true, if_false]
  refine ⟨rfl, ?_, ?_, hview⟩
  · simp only [report, afterFetch, nextFetch_preDecode]
    rfl
  · simp only [report, afterFetch, nextFetch_preDecode]
    rfl

end Sys2Proof.Machine
namespace Sys2Proof

/-- The settings of a level without its latencies. -/
def LevelCfg.untimed (c : LevelCfg) : LevelCfg := { c with hitLat := 0, busLat := 0 }

section

variable (c : LevelCfg)

@[simp] theorem LevelCfg.untimed_lineSize : c.untimed.lineSize = c.lineSize := rfl
@[simp] theorem LevelCfg.untimed_wt : c.untimed.wt = c.wt := rfl
@[simp] theorem LevelCfg.untimed_wa : c.untimed.wa = c.wa := rfl
@[simp] theorem LevelCfg.untimed_method : c.untimed.method = c.method := rfl
@[simp] theorem LevelCfg.untimed_prefetch : c.untimed.prefetch = c.prefetch := rfl
@[simp] theorem LevelCfg.untimed_off (a : Nat) : c.untimed.off a = c.off a := rfl
@[simp] theorem LevelCfg.untimed_set (a : Nat) : c.untimed.set a = c.set a := rfl
@[simp] theorem LevelCfg.untimed_tag (a : Nat) : c.untimed.tag a = c.tag a := rfl
@[simp] theorem LevelCfg.untimed_base (a : Nat) : c.untimed.base a = c.base a := rfl
@[simp] theorem LevelCfg.untimed_lineAddr (s t : Nat) : c.untimed.lineAddr s t = c.lineAddr s t := rfl

end

end Sys2Proof

namespace Sys2Proof.Machine

/-! SUPPORT. The storage chain answers the same with other latencies, but for the time (20_memory.md R67 to R89;
70_reset_and_hazards.md R445). -/

/-! ### Answers and settings without their times -/

/-- An answer without its time. -/
def Reply.untimed : Reply → Reply
  | .ok st buf hit _ => .ok st buf hit 0
  | .bounds st l a n => .bounds st l a n

/-- Two answers that differ in time alone. -/
theorem Reply.untimed_cases {x y : Reply} (h : x.untimed = y.untimed) :
    (∃ st buf hit t t', x = .ok st buf hit t ∧ y = .ok st buf hit t') ∨ ∃ st l a n, x = .bounds st l a n ∧ y = .bounds st l a n := by
  cases x with
  | ok st buf hit t =>
    cases y with
    | ok st' buf' hit' t' =>
      obtain ⟨rfl, rfl, rfl, -⟩ := Reply.ok.inj h
      exact .inl ⟨_, _, _, _, _, rfl, rfl⟩
    | bounds => cases h
  | bounds st l a n =>
    cases y with
    | ok => cases h
    | bounds =>
      cases h
      exact .inr ⟨_, _, _, _, rfl, rfl⟩

theorem memHandle_untimed (cfg : Config) (r : Req) (st : Storage) :
    (memHandle cfg r st).untimed = (memHandle cfg.untimed r st).untimed := by
  by_cases hb : cfg.physMemSize < r.addr + r.bytes
  · rw [memHandle, memHandle, if_pos hb, if_pos (c := cfg.untimed.physMemSize < _) hb]
  · rw [memHandle, memHandle, if_neg hb, if_neg (c := cfg.untimed.physMemSize < _) hb]
    split_ifs <;> rfl

/-! ### One level -/

/-- Two layers whose answers differ in time alone. -/
def SameAnswers (f g : Req → Storage → Reply) : Prop := ∀ r st, (f r st).untimed = (g r st).untimed

theorem failedLine_untimed (c : LevelCfg) (lv : Level) (s w : Nat) (line : CacheLine) (st : Storage) (l : LayerName) (a n : Nat) :
    failedLine c.untimed lv s w line st l a n = failedLine c lv s w line st l a n := rfl

theorem allocate_of_bounds {c : LevelCfg} {lower : Req → Storage → Reply} {r : Req} {lv : Level} {below st : Storage} {l : LayerName}
    {a n : Nat} (h : writeback c lower r (victimLine c lv r.addr) below = .bounds st l a n) :
    allocate c lower r lv below = .bounds (push lv st) l a n := by
  rw [victimLine, victimOf] at h
  simp only [allocate, h]

section Level

variable {c : LevelCfg} {lower lower' : Req → Storage → Reply} {r : Req} {lv : Level} {below : Storage} {w : Nat}
  (h : SameAnswers lower lower')

include h

theorem writeLine_untimed (line : CacheLine) (hit : Bool) (t t' : Nat) :
    (writeLine c lower r lv below w line hit t).untimed = (writeLine c.untimed lower' r lv below w line hit t').untimed := by
  cases hwt : c.wt <;>
    simp only [writeLine, LevelCfg.untimed_wt, LevelCfg.untimed_off, LevelCfg.untimed_set, failedLine_untimed, hwt, if_true,
      Bool.false_eq_true, if_false]
  · rfl
  · rcases Reply.untimed_cases (h { r with isRead := false } below) with ⟨_, _, _, _, _, hx, hy⟩ | ⟨_, _, _, _, hx, hy⟩ <;>
      simp only [hx, hy, Reply.untimed]

theorem hitPath_untimed : (hitPath c lower r lv below w).untimed = (hitPath c.untimed lower' r lv below w).untimed := by
  simp only [hitPath, LevelCfg.untimed_set, LevelCfg.untimed_method, LevelCfg.untimed_off]
  split_ifs
  · rfl
  · exact writeLine_untimed h ..

theorem forwardMiss_untimed : (forwardMiss lower r lv below).untimed = (forwardMiss lower' r lv below).untimed := by
  rcases Reply.untimed_cases (h r below) with ⟨_, _, _, _, _, hx, hy⟩ | ⟨_, _, _, _, hx, hy⟩ <;>
    simp only [forwardMiss, hx, hy, Reply.untimed]

theorem writeback_untimed (old : CacheLine) :
    (writeback c lower r old below).untimed = (writeback c.untimed lower' r old below).untimed := by
  simp only [writeback, LevelCfg.untimed_set, LevelCfg.untimed_lineAddr, LevelCfg.untimed_lineSize]
  split_ifs
  · exact h ..
  · rfl

theorem fillPath_untimed (t t' : Nat) :
    (fillPath c lower r lv below w t).untimed = (fillPath c.untimed lower' r lv below w t').untimed := by
  simp only [fillPath, LevelCfg.untimed_set, LevelCfg.untimed_tag, LevelCfg.untimed_base, LevelCfg.untimed_off,
    LevelCfg.untimed_lineSize, failedLine_untimed]
  rcases Reply.untimed_cases (h ⟨c.base r.addr, c.lineSize, true, [], r.isPrefetch⟩ below) with
    ⟨_, _, _, _, _, hx, hy⟩ | ⟨_, _, _, _, hx, hy⟩ <;> simp only [hx, hy]
  split_ifs
  · rfl
  · exact writeLine_untimed h ..

theorem allocate_untimed : (allocate c lower r lv below).untimed = (allocate c.untimed lower' r lv below).untimed := by
  rcases Reply.untimed_cases (writeback_untimed (c := c) (r := r) (below := below) h (victimLine c lv r.addr)) with
    ⟨_, _, _, _, _, hx, hy⟩ | ⟨_, _, _, _, hx, hy⟩
  · rw [allocate_of_writeback hx, allocate_of_writeback (c := c.untimed) hy]
    exact fillPath_untimed h ..
  · rw [allocate_of_bounds hx, allocate_of_bounds (c := c.untimed) hy]

theorem serve_untimed (i : Nat) : (serve i c lower r lv below).untimed = (serve i c.untimed lower' r lv below).untimed := by
  by_cases hb : c.lineSize < c.off r.addr + r.bytes
  · simp only [serve, LevelCfg.untimed_lineSize, LevelCfg.untimed_off, hb, if_true]
  · simp only [serve, LevelCfg.untimed_lineSize, LevelCfg.untimed_off, hb, if_false, LevelCfg.untimed_set, LevelCfg.untimed_tag]
    cases findHit ((lv.arrive r.isPrefetch).ways (c.set r.addr)) (c.tag r.addr) with
    | some w => exact hitPath_untimed h
    | none =>
      by_cases hforward : (!r.isRead && !c.wa) = true
      · simp only [LevelCfg.untimed_wa, hforward, if_true]
        exact forwardMiss_untimed h
      · simp only [LevelCfg.untimed_wa, hforward]
        exact allocate_untimed h

theorem atLevel_untimed (cfg : Config) (i : Nat) : SameAnswers (atLevel cfg i c lower) (atLevel cfg.untimed i c.untimed lower') := by
  intro r st
  unfold atLevel
  split
  · exact memHandle_untimed ..
  · exact serve_untimed h i

end Level

/-! ### The chain -/

theorem prefetchLoop_untimed {self self' : Req → Storage → Reply} (h : SameAnswers self self') (cfg : Config) (c : LevelCfg)
    (base : Nat) : ∀ n k st,
      (prefetchLoop cfg c self base n k st).untimed = (prefetchLoop cfg.untimed c.untimed self' base n k st).untimed
  | 0, _, _ => rfl
  | n + 1, k, st => by
    simp only [prefetchLoop, LevelCfg.untimed_lineSize, show cfg.untimed.prefetchOob = cfg.prefetchOob from rfl,
      show cfg.untimed.physMemSize = cfg.physMemSize from rfl]
    split_ifs
    · rfl
    · rcases Reply.untimed_cases (h ⟨base + k * c.lineSize, c.lineSize, true, [], true⟩ st) with
        ⟨_, _, _, _, _, hx, hy⟩ | ⟨_, _, _, _, hx, hy⟩ <;> simp only [hx, hy]
      exact prefetchLoop_untimed h cfg c base n (k + 1) _

theorem withPrefetch_untimed {self self' : Req → Storage → Reply} (h : SameAnswers self self') (cfg : Config) (c : LevelCfg) (r : Req)
    {x y : Reply} (hxy : x.untimed = y.untimed) :
    (withPrefetch cfg c self r x).untimed = (withPrefetch cfg.untimed c.untimed self' r y).untimed := by
  rcases Reply.untimed_cases hxy with ⟨st, _, _, _, _, rfl, rfl⟩ | ⟨_, _, _, _, rfl, rfl⟩
  · simp only [withPrefetch, LevelCfg.untimed_base, LevelCfg.untimed_prefetch]
    split_ifs
    · rfl
    · rcases Reply.untimed_cases (prefetchLoop_untimed h cfg c (c.base r.addr) (c.prefetch - 1) 1 st) with
        ⟨_, _, _, _, _, hx, hy⟩ | ⟨_, _, _, _, hx, hy⟩ <;> simp only [hx, hy, Reply.untimed]
  · rfl

/-- The chain answers the same under both settings, but for the time. -/
theorem handle_untimed (cfg : Config) : ∀ (cs : List LevelCfg) (i : Nat),
    SameAnswers (handle cfg i cs) (handle cfg.untimed i (cs.map LevelCfg.untimed))
  | [], _ => memHandle_untimed cfg
  | c :: cs, i => fun r st => by
    have hself := atLevel_untimed (c := c) (handle_untimed cfg cs (i + 1)) cfg i
    rw [List.map_cons, handle_cons, handle_cons]
    exact withPrefetch_untimed hself cfg c r (hself r st)

theorem handleTop_untimed (cfg : Config) : SameAnswers (handleTop cfg) (handleTop cfg.untimed) := handle_untimed cfg cfg.levels 1

/-! ### The view and the settings admitted -/

/-- The view does not look at latencies (R97). -/
theorem viewAt_untimed : ∀ (cs : List LevelCfg) (lvs : List Level) (m : Memory) (p : Nat),
    viewAt (cs.map LevelCfg.untimed) lvs m p = viewAt cs lvs m p
  | [], _, _, _ => rfl
  | _ :: _, [], _, _ => rfl
  | c :: cs, lv :: lvs, m, p => by
    simp only [List.map_cons, viewAt, LevelCfg.untimed_set, LevelCfg.untimed_tag, LevelCfg.untimed_off, viewAt_untimed cs lvs m p]

theorem linesGrow_untimed : ∀ cs : List LevelCfg, linesGrow (cs.map LevelCfg.untimed) = linesGrow cs
  | [] => rfl
  | [_] => rfl
  | c :: d :: cs => congrArg (decide (c.lineSize ≤ d.lineSize) && ·) (linesGrow_untimed (d :: cs))

/-- The constraints of R7 are on no time. -/
theorem admitted_untimed (cfg : Config) : cfg.untimed.admitted = cfg.admitted := by
  have hlevels : cfg.untimed.levels = cfg.levels.map LevelCfg.untimed := rfl
  have hall : (cfg.levels.map LevelCfg.untimed).all LevelCfg.admitted = cfg.levels.all LevelCfg.admitted := List.all_map ..
  simp only [Config.admitted, hlevels, hall, linesGrow_untimed, List.length_map]
  rfl

end Sys2Proof.Machine
namespace Sys2Proof.Machine

/-! PROOF. Timing never changes results (70_reset_and_hazards.md R445): every function of a cycle takes machines that differ in times alone
to machines that differ in times alone. -/

/-! ### Machines that differ in times alone -/

/-- `f` takes machines that differ in times alone to such machines. -/
def Timeless (f : State → State) : Prop := ∀ s t : State, s.untimed = t.untimed → (f s).untimed = (f t).untimed

/-- The machine without the times that it counts itself. -/
def State.costless (s : State) : State := { s with ctr := { s.ctr with cycleCount := 0 }, sig := { s.sig with cost := 0 } }

/-- What `f` does without the times of the settings it does with them too, but for the times that it counts. -/
theorem timeless_of_untimed {f : State → State} (h : ∀ s, (f s).untimed = (f s.untimed).costless) : Timeless f :=
  fun s t hst => (h s).trans ((congrArg (fun u => (f u).costless) hst).trans (h t).symm)

theorem Timeless.comp {f g : State → State} (hf : Timeless f) (hg : Timeless g) : Timeless fun s => f (g s) :=
  fun s t h => hf _ _ (hg s t h)

section Fields

variable (s : State)

@[simp] theorem State.untimed_cfg : s.untimed.cfg = s.cfg.untimed := rfl
@[simp] theorem State.untimed_eCur : s.untimed.eCur = s.eCur := rfl
@[simp] theorem State.untimed_eNxt : s.untimed.eNxt = s.eNxt := rfl
@[simp] theorem State.untimed_wNxt : s.untimed.wNxt = s.wNxt := rfl
@[simp] theorem State.untimed_input : s.untimed.input = s.input := rfl

end Fields

/-! ### Registers and forwarding -/

theorem writeReg_untimed (r : Reg) (v : Word) (s : State) : (writeReg r v s).untimed = (writeReg r v s.untimed).costless := by
  unfold writeReg
  split_ifs <;> rfl

theorem writeDst_untimed (d : Option Reg) (v : Word) (s : State) : (writeDst d v s).untimed = (writeDst d v s.untimed).costless := by
  cases d with
  | none => rfl
  | some r => exact writeReg_untimed r v s

theorem forward_untimed (d : Option Reg) (v : Word) (s : State) : (forward d v s).untimed = (forward d v s.untimed).costless := by
  cases d with
  | none => rfl
  | some r =>
    simp only [forward, State.untimed_eNxt]
    cases s.eNxt.slot <;> rfl

/-! ### Accesses -/

/-- What an access gives, without its time. -/
def AccessResult.untimed : AccessResult → AccessResult
  | .ok s v _ => .ok s.untimed v 0
  | .raised s => .raised s.untimed

theorem AccessResult.untimed_cases {x y : AccessResult} (h : x.untimed = y.untimed) :
    (∃ s t v time time', x = .ok s v time ∧ y = .ok t v time' ∧ s.untimed = t.untimed) ∨
    ∃ s t, x = .raised s ∧ y = .raised t ∧ s.untimed = t.untimed := by
  cases x with
  | ok s v time =>
    cases y with
    | ok t w time' =>
      obtain ⟨hst, rfl, -⟩ := AccessResult.ok.inj h
      exact .inl ⟨_, _, _, _, _, rfl, rfl, hst⟩
    | raised => cases h
  | raised s =>
    cases y with
    | ok => cases h
    | raised t => exact .inr ⟨_, _, rfl, rfl, AccessResult.raised.inj h⟩

theorem translate_untimed (s : State) (v : Word) (n : Nat) : translate s.untimed v n = translate s v n := rfl

/-- An access answers machines that differ in times alone the same, but for its time. -/
theorem access_untimed (g : Stage) {s t : State} (h : s.untimed = t.untimed) (v d : Word) (n : Nat) (rd : Bool) :
    (access g s v n rd d).untimed = (access g t v n rd d).untimed := by
  have htr : translate s v n = translate t v n := by rw [← translate_untimed s, h, translate_untimed]
  have hcfg : s.cfg.untimed = t.cfg.untimed := congrArg State.cfg h
  have hst : s.storage = t.storage := (congrArg State.storage h : _)
  simp only [access, htr]
  cases translate t v n with
  | fail k => exact congrArg AccessResult.raised (timeless_of_untimed (f := raise _) (fun _ => rfl) s t h)
  | ok p =>
    have hanswers : SameAnswers (handleTop s.cfg) (handleTop t.cfg) := fun r st => by
      rw [handleTop_untimed s.cfg, hcfg, ← handleTop_untimed t.cfg]
    have hstored : ∀ st, Timeless fun u => { u with storage := st } := fun _ => timeless_of_untimed fun _ => rfl
    rcases Reply.untimed_cases (hanswers ⟨p, n, rd, if rd then [] else bytesOf n d, false⟩ t.storage) with
      ⟨st, buf, _, _, _, hx, hy⟩ | ⟨st, _, _, _, hx, hy⟩ <;> simp only [hst, hx, hy, AccessResult.untimed]
    · rw [hstored st s t h]
    · exact congrArg AccessResult.raised (timeless_of_untimed (f := fun u => raise _ { u with storage := st }) (fun _ => rfl) s t h)

/-! ### Outcomes -/

/-- An outcome without its times. -/
def untimedOutcome : Host.Outcome State Fault Refusal → Host.Outcome State Fault Refusal
  | .next s => .next s.untimed
  | .fault f => .fault f
  | .refused r => .refused r

/-- `k` answers machines that differ in times alone alike. -/
def TimelessStage (k : State → Host.Outcome State Fault Refusal) : Prop :=
  ∀ s t : State, s.untimed = t.untimed → untimedOutcome (k s) = untimedOutcome (k t)

theorem Timeless.stage {f : State → State} (hf : Timeless f) : TimelessStage fun s => .next (f s) :=
  fun s t h => congrArg Host.Outcome.next (hf s t h)

theorem thenStage_untimed {o o' : Host.Outcome State Fault Refusal} {k : State → Host.Outcome State Fault Refusal}
    (ho : untimedOutcome o = untimedOutcome o') (hk : TimelessStage k) :
    untimedOutcome (thenStage o k) = untimedOutcome (thenStage o' k) := by
  cases o with
  | next u =>
    cases o' with
    | next v =>
      have huv : u.untimed = v.untimed := Host.Outcome.next.inj ho
      have hfatal : v.status.isFatal = u.status.isFatal := (congrArg (fun w => w.status.isFatal) huv).symm
      simp only [thenStage, hfatal]
      split_ifs
      · exact (timeless_of_untimed (f := fun w => { w with sig := Signals.idle }) fun _ => rfl).stage u v huv
      · exact hk u v huv
    | fault | refused => cases ho
  | fault f =>
    cases o' with
    | fault => exact ho
    | next | refused => cases ho
  | refused r =>
    cases o' with
    | refused => exact ho
    | next | fault => cases ho

/-- A stage that goes on to another. -/
theorem TimelessStage.then {k k' : State → Host.Outcome State Fault Refusal} (hk : TimelessStage k) (hk' : TimelessStage k') :
    TimelessStage fun s => thenStage (k s) k' :=
  fun s t h => thenStage_untimed (hk s t h) hk'

/-! ### Fetch and Decode -/

theorem afterFetch_untimed (pc : Word) (w : InstrWord) (s : State) :
    (afterFetch pc w s).untimed = (afterFetch pc w s.untimed).costless := by
  unfold afterFetch
  cases preDecode w <;> rfl

theorem timeless_fetchStage : Timeless fetchStage := by
  intro s t h
  have hF : t.fCur = s.fCur := (congrArg State.fCur h).symm
  cases hb : s.fCur.bubble with
  | true =>
    simp only [fetchStage, hb, hF ▸ hb, if_true]
    exact timeless_of_untimed
      (f := fun u => { u with dNxt := Snap.bubble, fNxt := { pc := u.fCur.pc, bubble := true, stall := false } }) (fun _ => rfl) s t h
  | false =>
    rcases AccessResult.untimed_cases (access_untimed .fetch h s.fCur.pc 0 4 true) with ⟨u, v, a, _, _, hx, hy, huv⟩ | ⟨u, v, hx, hy, huv⟩ <;>
      simp only [fetchStage, hF, hb, fetch32, hx, hy, Bool.false_eq_true, if_false]
    · exact timeless_of_untimed (afterFetch_untimed s.fCur.pc (fetchedWord a)) u v huv
    · exact huv

theorem timeless_decodeStage : TimelessStage decodeStage := by
  intro s t h
  have hD : t.dCur = s.dCur := (congrArg State.dCur h).symm
  have hshamt : t.cfg.shamt6 = s.cfg.shamt6 := (congrArg (fun u => u.cfg.shamt6) h).symm
  cases hd : s.dCur.slot with
  | none =>
    simp only [decodeStage, hd, hD ▸ hd]
    exact (timeless_of_untimed (f := fun u => { u with eNxt := Snap.bubble }) fun _ => rfl).stage s t h
  | some d =>
    cases hi : decode s.cfg.shamt6 d.word with
    | reject why =>
      rw [decodeStage_of_reject hd hi, decodeStage_of_reject (hD ▸ hd) (hshamt ▸ hi)]
      exact (timeless_of_untimed (f := raise _) fun _ => rfl).stage s t h
    | ok i =>
      rw [decodeStage_of_ok hd hi, decodeStage_of_ok (hD ▸ hd) (hshamt ▸ hi)]
      exact (timeless_of_untimed (f := fun u => u.decoded i d) fun _ => rfl).stage s t h

/-! ### Execute -/

/-- What an instruction computes is no matter of times. -/
theorem compute_untimed (i : Instr) (cfg : Config) (pc a b : Word) :
    (meaningOf i).compute cfg.untimed pc a b = (meaningOf i).compute cfg pc a b := by
  cases i <;> rfl

theorem executePart_untimed (i : Instr) (s : State) :
    (executePart i (meaningOf i) s).untimed = (executePart i (meaningOf i) s.untimed).costless := by
  simp only [executePart, State.untimed_eCur]
  cases s.eCur.slot with
  | none => rfl
  | some e =>
    simp only [executeOp, report_cfg, State.untimed_cfg, compute_untimed]
    cases (meaningOf i).compute s.cfg e.pc e.op1 e.op2 with
    | value | jump | error => rfl
    | branch taken actual =>
      by_cases hright : taken = e.predTaken
      · simp only [hright, if_true]
        rfl
      · simp only [hright, if_false]
        rfl

theorem afterExecute_of_idle {i : Instr} {s : State} (h : s.mNxt.slot = none) :
    afterExecute i s = if loadUse i s.eNxt.slot then holdForLoad s else s := by
  simp only [afterExecute, h]

theorem afterExecute_untimed (i : Instr) (s : State) : (afterExecute i s).untimed = (afterExecute i s.untimed).costless := by
  cases hx : s.mNxt.slot with
  | none =>
    rw [afterExecute_of_idle hx, afterExecute_of_idle (s := s.untimed) hx, State.untimed_eNxt]
    split_ifs <;> rfl
  | some x =>
    rw [afterExecute_of_result hx, afterExecute_of_result (s := s.untimed) hx, State.untimed_eNxt]
    split_ifs
    · rfl
    · rfl
    · exact forward_untimed ..

theorem timeless_atPhase (p : Phase) : Timeless (atPhase p) := timeless_of_untimed fun _ => rfl

theorem timeless_executeStage : TimelessStage executeStage := by
  intro s t h
  have hE : t.eCur = s.eCur := (congrArg State.eCur h).symm
  cases hs : s.eCur.slot with
  | none =>
    simp only [executeStage, hs, hE ▸ hs]
    exact (timeless_of_untimed (f := fun u => { u with mNxt := Snap.bubble }) fun _ => rfl).stage s t h
  | some e =>
    simp only [executeStage, hs, hE ▸ hs, exec_execute]
    exact ((timeless_of_untimed (executePart_untimed e.inst.op)).comp (timeless_atPhase .execute)).stage.then
      (timeless_of_untimed (afterExecute_untimed e.inst.op)).stage s t h

/-! ### MemoryAccess -/

theorem timeless_memoryPart (m : Meaning) : Timeless (memoryPart m) := by
  intro s t h
  have hM : t.mCur = s.mCur := (congrArg State.mCur h).symm
  simp only [memoryPart, hM]
  cases s.mCur.slot with
  | none => exact h
  | some x =>
    have hdone : ∀ res, Timeless fun u => { u with wNxt := Snap.of { x with valE := res } } :=
      fun _ => timeless_of_untimed fun _ => rfl
    simp only [memoryOp, memRead, memWrite]
    cases m.mem with
    | none => exact hdone x.valE s t h
    | load n signed =>
      rcases AccessResult.untimed_cases (access_untimed .memory h x.valE 0 n true) with
        ⟨u, v, a, _, _, hx, hy, huv⟩ | ⟨u, v, hx, hy, huv⟩ <;> simp only [hx, hy]
      · exact hdone (extend n signed a) u v huv
      · exact huv
    | store n =>
      rcases AccessResult.untimed_cases (access_untimed .memory h x.valE x.valC n false) with
        ⟨u, v, a, _, _, hx, hy, huv⟩ | ⟨u, v, hx, hy, huv⟩ <;> simp only [hx, hy]
      · exact hdone x.valE u v huv
      · exact huv

theorem afterMemory_untimed (i : Instr) (s : State) : (afterMemory i s).untimed = (afterMemory i s.untimed).costless := by
  simp only [afterMemory, State.untimed_wNxt]
  cases s.wNxt.slot with
  | none => rfl
  | some x => exact forward_untimed ..

theorem timeless_memoryStage : TimelessStage memoryStage := by
  intro s t h
  have hM : t.mCur = s.mCur := (congrArg State.mCur h).symm
  cases hs : s.mCur.slot with
  | none =>
    simp only [memoryStage, hs, hM ▸ hs]
    exact (timeless_of_untimed (f := fun u => { u with wNxt := Snap.bubble }) fun _ => rfl).stage s t h
  | some x =>
    simp only [memoryStage, hs, hM ▸ hs, exec_memory]
    exact ((timeless_memoryPart _).comp (timeless_atPhase .memory)).stage.then
      (timeless_of_untimed (afterMemory_untimed x.inst.op)).stage s t h

/-! ### WriteBack -/

/-- A string read does not look at times (R265, R266). -/
theorem scanStr_untimed (s : State) : ∀ (n : Nat) (v : Word) (acc : List Byte), scanStr s.untimed n v acc = scanStr s n v acc
  | 0, _, _ => rfl
  | n + 1, v, acc => by
    have hview : s.untimed.view = s.view := funext fun p => viewAt_untimed ..
    have hread : readByte s.untimed v = readByte s v := by simp only [readByte, translate_untimed, hview]
    simp only [scanStr, hread, scanStr_untimed s n]

theorem sysPrintStr_untimed (a0 : Word) (s : State) : (sysPrintStr a0 s).untimed = (sysPrintStr a0 s.untimed).costless := by
  simp only [sysPrintStr, scanStr_untimed, show s.untimed.cfg.maxStrLen = s.cfg.maxStrLen from rfl]
  cases scanStr s s.cfg.maxStrLen a0 [] <;> rfl

theorem sysRead_untimed (s : State) : (sysRead s).untimed = (sysRead s.untimed).costless := by
  simp only [sysRead, nextInput, State.untimed_input]
  cases s.input <;> exact writeReg_untimed ..

theorem syscall_untimed (pc a0 a7 : Word) (s : State) : (syscall pc a0 a7 s).untimed = (syscall pc a0 a7 s.untimed).costless := by
  unfold syscall
  split_ifs
  · rfl
  · rfl
  · exact sysPrintStr_untimed ..
  · exact sysRead_untimed s
  · exact sysRead_untimed s
  · rfl
  · rfl

theorem timeless_retireOp (i : Instr) (m : Meaning) (pc valE valC : Word) (ok : Bool) : Timeless (retireOp i m pc valE valC ok) := by
  have hcount : Timeless countInst := timeless_of_untimed fun _ => rfl
  intro s t h
  unfold retireOp
  cases m.retire with
  | commit => exact hcount.comp (timeless_of_untimed (writeDst_untimed i.dst valE)) s t h
  | branch => exact (timeless_of_untimed (f := fun u => countBranch ok (countInst u)) fun _ => rfl) s t h
  | syscall =>
    have hcall := timeless_of_untimed (syscall_untimed pc valE valC) s t h
    have hstatus : (syscall pc valE valC s).status = (syscall pc valE valC t).status := (congrArg State.status hcall : _)
    simp only [hstatus]
    split_ifs
    · exact hcall
    · exact hcount _ _ hcall

theorem timeless_writeBackPart (i : Instr) (m : Meaning) : Timeless (writeBackPart i m) := by
  intro s t h
  have hW : t.wCur = s.wCur := (congrArg State.wCur h).symm
  simp only [writeBackPart, hW]
  cases s.wCur.slot with
  | none => exact h
  | some x =>
    have hretire := timeless_retireOp i m x.pc x.valE x.valC x.predOK s t h
    have hstatus : (retireOp i m x.pc x.valE x.valC x.predOK t).status = (retireOp i m x.pc x.valE x.valC x.predOK s).status :=
      (congrArg State.status hretire).symm
    by_cases hgo : m.retire = .syscall ∧ (retireOp i m x.pc x.valE x.valC x.predOK s).status = .running
    · dsimp only
      rw [if_pos hgo, if_pos (hstatus ▸ hgo)]
      exact timeless_of_untimed (f := fun u => { u with fNxt := { pc := x.pc + 4, bubble := false, stall := false } }) (fun _ => rfl) _ _
        hretire
    · dsimp only
      rw [if_neg hgo, if_neg (hstatus ▸ hgo)]
      exact hretire

theorem timeless_writeBackStage : TimelessStage writeBackStage := by
  intro s t h
  have hW : t.wCur = s.wCur := (congrArg State.wCur h).symm
  cases hs : s.wCur.slot with
  | none =>
    simp only [writeBackStage, hs, hW ▸ hs]
    exact congrArg Host.Outcome.next h
  | some x =>
    simp only [writeBackStage, hs, hW ▸ hs, exec_writeBack]
    exact ((timeless_writeBackPart _ _).comp
      (timeless_of_untimed (f := fun u => atPhase .writeBack (report 1 u)) fun _ => rfl)).stage.then
      (timeless_of_untimed (forward_untimed x.inst.op.dst x.valE)).stage s t h

/-! ### The cycle and the step -/

theorem timeless_cycle : TimelessStage cycle :=
  (timeless_fetchStage.comp (timeless_of_untimed (f := fun u => { u with sig := Signals.idle }) fun _ => rfl)).stage.then <|
    timeless_decodeStage.then <| timeless_executeStage.then <| timeless_memoryStage.then <| timeless_writeBackStage.then
      (timeless_of_untimed (f := updatePipeline) fun _ => rfl).stage

theorem timeless_step : TimelessStage step := by
  intro s t h
  have hstatus : t.status = s.status := (congrArg State.status h).symm
  have hadmitted : t.cfg.admitted = s.cfg.admitted := by
    rw [← admitted_untimed t.cfg, ← admitted_untimed s.cfg]
    exact (congrArg (fun u => u.cfg.admitted) h).symm
  simp only [step, hstatus, hadmitted]
  cases s.status with
  | exited | fatal => rfl
  | running =>
    split_ifs
    · exact timeless_cycle s t h
    · rfl

/-- Settles O33: a step is made of stages, and each is timeless. -/
theorem timingNeverChangesResults : Obligations.TimingNeverChangesResults := by
  intro s t h
  have hstep := timeless_step s t h
  refine ⟨fun s' hs => ?_, fun f hs => ?_, fun r hs => ?_⟩ <;> rw [hs] at hstep
  · cases ht : step t with
    | next t' => exact ⟨t', rfl, Host.Outcome.next.inj (ht ▸ hstep)⟩
    | fault | refused => cases ht ▸ hstep
  · cases ht : step t with
    | fault => cases ht ▸ hstep; rfl
    | next | refused => cases ht ▸ hstep
  · cases ht : step t with
    | refused => cases ht ▸ hstep; rfl
    | next | fault => cases ht ▸ hstep

end Sys2Proof.Machine
